-- ==== Sys2Proof/Word.lean ====
section
/-! DEFINITION. The byte and the byte sequence (R7 and R8 of 00_scope.md). -/

namespace Sys2Proof

/-- A byte: an unsigned integer in 0..255, bit 0 the least significant (R7). -/
abbrev Byte := BitVec 8

/-- A byte sequence; index 0 is the first byte on the wire (R8, R52). -/
abbrev Bytes := List Byte

/-- A frame is a byte sequence laid out as R70 says. -/
abbrev Frame := Bytes

end Sys2Proof
end

