-- ==== Sys2Proof/Config.lean ====
section
/-! DEFINITION. The implementation parameters (R6 of 00_scope.md) and the values the spec leaves open. -/

namespace Sys2Proof

/-- The parameters a build of the engine fixes (R6, U1, U16, U17, U18). They stand in State, no step writes them,
and a statement about every state is a statement about every value of them. -/
structure Config where
  /-- `TXQ_DEPTH`, at least 1, OPEN in the spec (D10). -/
  txqDepth : Nat
  /-- `SYNC_DEPTH`; `none` is the default, unbounded (D11). -/
  syncDepth : Option Nat
  /-- `ASYNC_DEPTH`; `none` is the default, unbounded (D11). -/
  asyncDepth : Option Nat
  /-- `SEQ_RESET` (D17). -/
  seqReset : Byte
  /-- `SYNC_LEN_THRESHOLD` (D12). -/
  syncLenThreshold : Nat
  /-- `COLL_TAG_INDEX` (D14). -/
  collTagIndex : Nat
deriving DecidableEq, Repr

/-- `TXQ_DEPTH` less 1 of the engine at `State.reset`. OPEN in the spec (U1, D10), so it has no value here (log 1). -/
opaque Config.openTxqDepthPred : Nat

/-- How many bytes the transport accepted of a frame whose write it answered with `ERR` (R56, U15; log 7), or whose write
Reset cut off unanswered (R322; log 23): a free draw. -/
opaque Config.freePrefixLen : Nat → Nat

/-- The code of the n-th free permutation of SYNCBUF (R204, U2; log 7); `Machine.permute` reads it. -/
opaque Config.freePermutation : Nat → Nat

end Sys2Proof
end

