-- ==== Sys2Proof/Machine/Frame.lean ====
section
/-! DEFINITION. The wire frame: its constants (R6), its fields (R70), its checksum (R100), its two invariants (R71)
and its classes (R74, R76). Everything here is read from 30_encoding.md and 40_codec.md. -/

namespace Sys2Proof

/-- `HDR_LEN` (R6). -/
@[simp] abbrev hdrLen : Nat := 6
/-- `MAX_BODY` (R6). -/
@[simp] abbrev maxBody : Nat := 255
/-- `SYNC_POLLS` (R6). -/
@[simp] abbrev syncPolls : Nat := 500
/-- `COLL_LEN` (R6). -/
@[simp] abbrev collLen : Nat := 22
/-- `COLL_TAG_VALUE` (R6). -/
@[simp] abbrev collTagValue : Byte := 17
/-- `SAMPLE_LEN` (R6). -/
@[simp] abbrev sampleLen : Nat := 90
/-- `START0` and `START1` (R6). -/
@[simp] abbrev startByte : Byte := 0xFF
/-- `MARK_SYNC` (R6, R74). -/
@[simp] abbrev markSync : Byte := 0xFF
/-- `MARK_ASYNC` (R6, R74). -/
@[simp] abbrev markAsync : Byte := 0xFE

/-- The default parameters of R6; the OPEN queue depth stays open (log 1, log 2). -/
def Config.default : Config where
  txqDepth := Config.openTxqDepthPred + 1
  syncDepth := none
  asyncDepth := none
  seqReset := 0x00
  syncLenThreshold := 7
  collTagIndex := 8

/-- `sum(s)`, the integer sum of a sequence's bytes (R8). -/
def byteSum : Bytes → Nat
  | [] => 0
  | b :: s => b.toNat + byteSum s

/-- `CKSUM(s) = 255 - (sum(s) mod 256)` (R100). -/
def cksum (s : Bytes) : Byte := BitVec.ofNat 8 (255 - byteSum s % 256)

/-- `f[i]`; past the end it reads as 0, which no frame the engine holds ever does (log 15). -/
def byteAt (f : Bytes) (i : Nat) : Byte := f.getD i 0

/-- The start byte 1, or route marker, `f[1]` (R70, R74). -/
def marker (f : Bytes) : Byte := byteAt f 1
/-- The sequence byte `f[4]` (R70). -/
def seqByte (f : Bytes) : Byte := byteAt f 4
/-- The body-length field `f[5]` as a count (R70). -/
def bodyLen (f : Bytes) : Nat := (byteAt f 5).toNat
/-- The checksum byte, the last byte of the frame (R70, R75). -/
def chkByte (f : Bytes) : Byte := byteAt f (f.length - 1)
/-- The bytes the checksum covers, `f[2..len(f)-2]` (R75). -/
def covered (f : Bytes) : Bytes := (f.drop 2).dropLast

/-- Frame invariant (a): `len(f) = f[5] + 7` (R71). -/
def lengthMatches (f : Bytes) : Bool := f.length == bodyLen f + 7

/-- Frame invariant (b): the last byte is the checksum of the covered bytes (R71, R75). -/
def checksumMatches (f : Bytes) : Bool := chkByte f == cksum (covered f)

/-- The frame ENCODE builds (R102): header, body, and the checksum over device id to the end of the body. -/
def buildFrame (dev cmd seq : Byte) (body : Bytes) : Frame :=
  let f := [startByte, startByte, dev, cmd, seq, BitVec.ofNat 8 body.length] ++ body
  f ++ [cksum (f.drop 2)]

/-- The route classes of a received frame (R74). -/
inductive RxClass where
  | sync | async | other
deriving DecidableEq, Repr

/-- The class the marker byte selects (R74). -/
def rxClass (f : Bytes) : RxClass :=
  if marker f = markSync then .sync else if marker f = markAsync then .async else .other

/-- The shapes of an async frame (R76). -/
inductive Shape where
  | collision | sample | other
deriving DecidableEq, Repr

/-- The shape of an async frame, tested in the order of R76; the tag index is the parameter `COLL_TAG_INDEX`. -/
def shapeOf (tagIndex : Nat) (e : Bytes) : Shape :=
  if e.length = collLen ∧ e[tagIndex]? = some collTagValue then .collision
  else if e.length = sampleLen then .sample
  else .other

end Sys2Proof
end

