-- ==== Sys2Proof/Syntax.lean ====
section
/-! DEFINITION. The instructions: one constructor per row of spec/opcode_table.json (R78, R80, R74, R76). -/

namespace Sys2Proof

/-- The operations of the host interface, the labels of the agents' internal steps, and the frame classes. -/
inductive Instr where
  /-- CKSUM, host operation 0x01 (R100). -/
  | cksum (b : Bytes)
  /-- ENCODE, host operation 0x02 (R102). -/
  | encode (dev cmd : Byte) (body : Bytes)
  /-- DECODE, host operation 0x03 (R105): six header bytes, the body given, the checksum byte. -/
  | decode (h body : Bytes) (chk : Byte)
  /-- SEND, host operation 0x04 (R130). -/
  | send (f : Frame)
  /-- SYNC_REQ, host operation 0x05 (R200). -/
  | syncReq (w : Frame)
  /-- TICK, host operation 0x06 (R230). -/
  | tick
  /-- START, host operation 0x07 (R260). -/
  | start
  /-- TX_STEP_TAKE, internal step 0x80 of the transmit worker (R132). -/
  | txStepTake
  /-- TX_STEP_WRITE, internal step 0x81 of the transmit worker (R134). -/
  | txStepWrite
  /-- RX_STEP, internal step 0x82 of the receive framer (R160). -/
  | rxStep
  /-- SYNC_POLL, internal step 0x83 of a caller's waiter (R203). -/
  | syncPoll
  /-- ASYNC_STEP, internal step 0x84 of the dispatcher (R232). -/
  | asyncStep
  /-- RESERVED: a host operation whose code is reserved (R81). -/
  | reserved (op : Byte)
  /-- FRAME_TX: a frame with both start bytes, on its way out (R70). -/
  | frameTx (f : Frame)
  /-- FRAME_RX_SYNC: a complete received frame with marker 0xFF (R74). -/
  | frameRxSync (f : Frame)
  /-- FRAME_RX_ASYNC: a complete received frame with marker 0xFE (R74). -/
  | frameRxAsync (f : Frame)
  /-- FRAME_RX_OTHER: a complete received frame with any other marker (R74). -/
  | frameRxOther (f : Frame)
  /-- ASYNC_COLLISION: a dispatched frame of the collision shape (R76). -/
  | asyncCollision (e : Frame)
  /-- ASYNC_SAMPLE: a dispatched frame of the streaming-sample shape (R76). -/
  | asyncSample (e : Frame)
  /-- ASYNC_OTHER: a dispatched frame of neither shape (R76). -/
  | asyncOther (e : Frame)
deriving DecidableEq, Repr

/-- The encoding layers of 30_encoding.md: what a string of bytes is read as. -/
inductive Layer where
  /-- a host operation (R78) -/
  | host
  /-- the code of an internal step, as a schedule names it (R80) -/
  | label
  /-- a frame on the transmit side of the wire (R70) -/
  | wireTx
  /-- a frame on the receive side of the wire (R74) -/
  | wireRx
  /-- a frame popped from ASYNCBUF (R76) -/
  | shape
deriving DecidableEq, Repr

/-- The layer an instruction is encoded in. -/
def Instr.layer : Instr → Layer
  | .cksum _ | .encode _ _ _ | .decode _ _ _ | .send _ | .syncReq _ | .tick | .start | .reserved _ => .host
  | .txStepTake | .txStepWrite | .rxStep | .syncPoll | .asyncStep => .label
  | .frameTx _ => .wireTx
  | .frameRxSync _ | .frameRxAsync _ | .frameRxOther _ => .wireRx
  | .asyncCollision _ | .asyncSample _ | .asyncOther _ => .shape

end Sys2Proof
end

