-- ==== Sys2Proof/WellFormed.lean ====
section
/-! DEFINITION. Which instructions the encodings of 30_encoding.md can express. -/

namespace Sys2Proof

/-- A reserved operation code: 0x00, 0x08 to 0x7F, 0x85 to 0xFF (R80). -/
def isReserved (op : Byte) : Bool :=
  op.toNat == 0 || (8 ≤ op.toNat && op.toNat ≤ 0x7F) || 0x85 ≤ op.toNat

/-- An internal step's code: 0x80 to 0x84 (R80). -/
def isInternal (op : Byte) : Bool := 0x80 ≤ op.toNat && op.toNat ≤ 0x84

/-- The operand ranges of R78 (16-bit and 8-bit counts, a six-byte header, whole frames), the reserved codes of R80,
and the class conditions of R70, R74 and R76. A frame's checksum is not part of it: the engine sends frames it does
not validate (R82) and validates received ones by COMMIT (R165). -/
def Instr.wellFormed (c : Config) : Instr → Bool
  | .cksum b => b.length ≤ 65535
  | .encode _ _ body => body.length ≤ maxBody
  | .decode h body _ => h.length == hdrLen && body.length ≤ maxBody
  | .send f => lengthMatches f
  | .syncReq w => lengthMatches w
  | .tick | .start | .txStepTake | .txStepWrite | .rxStep | .syncPoll | .asyncStep => true
  | .reserved op => isReserved op
  | .frameTx f => lengthMatches f && byteAt f 0 == startByte && marker f == startByte
  | .frameRxSync f => lengthMatches f && rxClass f == .sync
  | .frameRxAsync f => lengthMatches f && rxClass f == .async
  | .frameRxOther f => lengthMatches f && rxClass f == .other
  | .asyncCollision e => shapeOf c.collTagIndex e == .collision
  | .asyncSample e => shapeOf c.collTagIndex e == .sample
  | .asyncOther e => shapeOf c.collTagIndex e == .other

end Sys2Proof
end

