-- ==== Sys2Proof/Decode.lean ====
section
/-! DEFINITION. The decoder, total on any bytes and rejecting by name, and after it the encoder (R78, R80, R81 for
the host operations and the labels; R70, R74, R76 for the frame classes). -/

namespace Sys2Proof

/-- Why a string of bytes is no instruction of its layer. -/
inductive DecodeError where
  /-- no byte at all -/
  | empty
  /-- a host operation that ends before the length R78 gives (R81) -/
  | truncated (op : Byte)
  /-- an internal step's code issued as a host operation (R81) -/
  | internalCode (op : Byte)
  /-- a code that labels no internal step (R80) -/
  | noLabel (code : Byte)
  /-- a byte string that is no whole frame (R71 (a), R72) -/
  | badFrameLength
  /-- a frame without the two start bytes of a transmitted frame (R70) -/
  | noStartBytes
deriving DecidableEq, Repr

/-- A 16-bit big-endian count (R78). -/
def beCount (hi lo : Byte) : Nat := hi.toNat * 256 + lo.toNat

/-- The length of the host operation that begins with these bytes, from its code and the count at its fixed
position (R78). A reserved or internal code has the one byte of the code itself. -/
def opLength (bs : Bytes) : Nat :=
  match (byteAt bs 0).toNat with
  | 1 => 3 + beCount (byteAt bs 1) (byteAt bs 2)
  | 2 => 4 + (byteAt bs 3).toNat
  | 3 => 9 + (byteAt bs 1).toNat
  | 4 => 1 + (byteAt bs 6).toNat + 7
  | 5 => 1 + (byteAt bs 6).toNat + 7
  | _ => 1

/-- The operands of a host operation whose bytes are all there (R78); a code with no row of its own is RESERVED (R80). -/
def hostOperands (op : Byte) (bs : Bytes) : Instr :=
  match op.toNat with
  | 1 => .cksum ((bs.drop 3).take (beCount (byteAt bs 1) (byteAt bs 2)))
  | 2 => .encode (byteAt bs 1) (byteAt bs 2) ((bs.drop 4).take (byteAt bs 3).toNat)
  | 3 => .decode ((bs.drop 2).take 6) ((bs.drop 8).take (byteAt bs 1).toNat) (byteAt bs (8 + (byteAt bs 1).toNat))
  | 4 => .send ((bs.drop 1).take ((byteAt bs 6).toNat + 7))
  | 5 => .syncReq ((bs.drop 1).take ((byteAt bs 6).toNat + 7))
  | 6 => .tick
  | 7 => .start
  | _ => .reserved op

/-- A host operation (R78, R81). Bytes after its length are no part of it (log 10). -/
def decodeHost (bs : Bytes) : Except DecodeError Instr :=
  match bs with
  | [] => .error .empty
  | op :: _ =>
    if isInternal op then .error (.internalCode op)
    else if bs.length < opLength bs then .error (.truncated op)
    else .ok (hostOperands op bs)

/-- An internal step's label (R80). -/
def decodeLabel (bs : Bytes) : Except DecodeError Instr :=
  match bs with
  | [] => .error .empty
  | code :: _ =>
    match code.toNat with
    | 0x80 => .ok .txStepTake
    | 0x81 => .ok .txStepWrite
    | 0x82 => .ok .rxStep
    | 0x83 => .ok .syncPoll
    | 0x84 => .ok .asyncStep
    | _ => .error (.noLabel code)

/-- The class of a whole received frame (R74). -/
def rxInstr (f : Frame) : Instr :=
  match rxClass f with
  | .sync => .frameRxSync f
  | .async => .frameRxAsync f
  | .other => .frameRxOther f

/-- The shape of a frame popped from ASYNCBUF (R76). -/
def shapeInstr (tagIndex : Nat) (e : Frame) : Instr :=
  match shapeOf tagIndex e with
  | .collision => .asyncCollision e
  | .sample => .asyncSample e
  | .other => .asyncOther e

/-- A frame on the transmit side (R70). -/
def decodeWireTx (f : Bytes) : Except DecodeError Instr :=
  if lengthMatches f then
    if byteAt f 0 = startByte ∧ marker f = startByte then .ok (.frameTx f) else .error .noStartBytes
  else .error .badFrameLength

/-- A frame on the receive side; byte 0 is not examined (R73). -/
def decodeWireRx (f : Bytes) : Except DecodeError Instr :=
  if lengthMatches f then .ok (rxInstr f) else .error .badFrameLength

/-- The decoder of every layer. -/
def decode (c : Config) : Layer → Bytes → Except DecodeError Instr
  | .host, bs => decodeHost bs
  | .label, bs => decodeLabel bs
  | .wireTx, bs => decodeWireTx bs
  | .wireRx, bs => decodeWireRx bs
  | .shape, bs => .ok (shapeInstr c.collTagIndex bs)

/-- The low byte of a number. -/
def byteOfNat (n : Nat) : Byte := BitVec.ofNat 8 n

/-- The bytes of an instruction in its layer (R78, R80, R70). -/
def encode : Instr → Bytes
  | .cksum b => [0x01, byteOfNat (b.length / 256), byteOfNat b.length] ++ b
  | .encode dev cmd body => [0x02, dev, cmd, byteOfNat body.length] ++ body
  | .decode h body chk => [0x03, byteOfNat body.length] ++ h ++ body ++ [chk]
  | .send f => [0x04] ++ f
  | .syncReq w => [0x05] ++ w
  | .tick => [0x06]
  | .start => [0x07]
  | .txStepTake => [0x80]
  | .txStepWrite => [0x81]
  | .rxStep => [0x82]
  | .syncPoll => [0x83]
  | .asyncStep => [0x84]
  | .reserved op => [op]
  | .frameTx f => f
  | .frameRxSync f => f
  | .frameRxAsync f => f
  | .frameRxOther f => f
  | .asyncCollision e => e
  | .asyncSample e => e
  | .asyncOther e => e

/-! ### The table's numbering -/

/-- The `n` low bytes of a number, the least significant first. -/
def lowBytes : Nat → Nat → Bytes
  | 0, _ => []
  | n + 1, w => byteOfNat w :: lowBytes n (w / 256)

/-- An operation's given bytes followed by zeros up to its own length. -/
def zeroPadded (bs : Bytes) : Bytes := bs ++ List.replicate (opLength bs - bs.length) 0

/-- The layer and the bytes that a word of spec/opcode_table.json stands for (log 12). A 16-bit word is a wire row,
read over bytes 0 and 1 of the frame with byte 0 first, as those rows say; an 8-bit word 0xFF or 0xFE is the marker
byte of the two rows whose mask leaves byte 0 open; 0x80 to 0x84 are the internal labels; anything else is a host
operation whose missing operand bytes are zeros. -/
def tableBytes (nbits w : Nat) : Layer × Bytes :=
  if nbits = 16 then
    let f : Bytes := [byteOfNat (w / 256), byteOfNat w, 0, 0, 0, 0, 0]
    if byteAt f 0 = startByte ∧ marker f = startByte then (.wireTx, f) else (.wireRx, f)
  else if nbits = 8 ∧ (byteOfNat w = markSync ∨ byteOfNat w = markAsync) then
    (.wireRx, [0, byteOfNat w, 0, 0, 0, 0, 0])
  else if nbits = 8 ∧ isInternal (byteOfNat w) then (.label, [byteOfNat w])
  else (.host, zeroPadded (lowBytes (nbits / 8) w))

/-- The instruction of a word numbered as spec/opcode_table.json numbers it. -/
def decodeTableWord (nbits w : Nat) : Option Instr :=
  let t := tableBytes nbits w
  match decode Config.default t.1 t.2 with
  | .ok i => some i
  | .error _ => none

end Sys2Proof
end

