-- ==== Sys2Proof/Machine/State.lean ====
section
/-! DEFINITION. The state: everything 10_state.md R20 gives the engine, the parameters of 00_scope.md R6, the
transport at its boundary (20_memory.md R50, R51), what 60_exceptions.md R287 and R288 tell a model to keep beside
the state, and the schedule of the agents as plain data (log 4). INVENTORY.md lists every field with its rule. -/

namespace Sys2Proof.Machine

/-- `phase_TXW` (R23). -/
inductive TxPhase where
  | idle | busy
deriving DecidableEq, Repr

/-- `phase_RXF` (R24). -/
inductive RxPhase where
  | hdr | body | chk
deriving DecidableEq, Repr

/-- The topics of EVLOG (R30). -/
inductive Topic where
  | error | collision | sensordata
deriving DecidableEq, Repr

/-- A record of EVLOG (R30). -/
structure Event where
  topic : Topic
  payload : Bytes
deriving DecidableEq, Repr

/-- The causes of R280, each with its info. -/
inductive Cause where
  | txIoError
  | txShortWrite (n : Nat)
  | rxIoError
  | rxChecksumMismatch
  | rxUnknownMarker (m : Byte)
  | asyncUnrecognisedShape (len : Nat)
  | syncTimeout
  | decodeLenMismatch
  | encodeBodyTooLong (len : Nat)
  /-- the op byte; `none` for an operation of no bytes, which has none (log 10) -/
  | illegalOp (op : Option Byte)
  | syncbufOverflow
  | asyncbufOverflow
deriving DecidableEq, Repr

/-- `w_phase` (R29). -/
inductive WaiterPhase where
  | send | poll
deriving DecidableEq, Repr

/-- A waiter context (R29). -/
structure Waiter where
  phase : WaiterPhase
  frame : Frame
  polls : Nat
deriving DecidableEq, Repr

/-- What a host caller holds in: nothing, a SEND on a full queue (R131), or a SYNC_REQ in progress, whose waiter
context it owns (R29). -/
inductive CallerStatus where
  | idle
  | holding (f : Frame)
  | waiting (w : Waiter)
deriving DecidableEq, Repr

/-- The pseudo-operations (R84): ENCODE and then SEND, or ENCODE and then SYNC_REQ, of the frame ENCODE returned. -/
inductive Pseudo where
  | encSend | encSync
deriving DecidableEq, Repr

/-- What a caller's program holds: a host operation's bytes (R78), or a pseudo-operation with ENCODE's operands (R84). -/
inductive HostOp where
  | bytes (bs : Bytes)
  | pseudo (p : Pseudo) (dev cmd : Byte) (body : Bytes)
deriving DecidableEq, Repr

/-- A host caller: the operations it is still to issue, in its program order (R306), and what it holds in. -/
structure Caller where
  prog : List HostOp
  status : CallerStatus
deriving DecidableEq, Repr

/-- The transport's answer to a TRead (R300): at most so many bytes, or `ERR`. -/
inductive ReadAnswer where
  | upTo (j : Nat)
  | err
deriving DecidableEq, Repr

/-- The transport's answer to a TWrite (R301): every byte, at most so many bytes, or `ERR`. -/
inductive WriteAnswer where
  | all
  | upTo (n : Nat)
  | err
deriving DecidableEq, Repr

/-- What the transport can do between steps (R83's directives): bring bytes, or settle a coming answer. -/
inductive TransportInput where
  | bytes (b : Bytes)
  | readAnswer (a : ReadAnswer)
  | writeAnswer (a : WriteAnswer)
deriving DecidableEq, Repr

/-- The labels of the agents' internal steps (R80); a poll is a given caller's. -/
inductive Label where
  | txTake
  | txWrite
  | rx
  | poll (k : Nat)
  | async
deriving DecidableEq, Repr

/-- One entry of the schedule: what moves next (R11). -/
inductive Move where
  /-- host caller `k` issues its next operation, or retries the one it holds in -/
  | host (k : Nat)
  /-- an agent takes the labelled step -/
  | agent (l : Label)
  /-- the transport acts -/
  | transport (t : TransportInput)
  /-- Reset (R320) -/
  | reset
deriving DecidableEq, Repr

/-- A result byte string returned to a caller (R79). -/
structure Answer where
  caller : Nat
  value : Bytes
deriving DecidableEq, Repr

structure State where
  /-- the parameters of R6 -/
  cfg : Config
  /-- `SEQ` (R21) -/
  seq : Byte
  /-- `TXQ` (R22), oldest first -/
  txq : List Frame
  /-- `phase_TXW` (R23) -/
  phaseTxw : TxPhase
  /-- `TXCUR` (R23) -/
  txcur : Option Frame
  /-- `phase_RXF` (R24) -/
  phaseRxf : RxPhase
  /-- `ABUF` (R24) -/
  abuf : Bytes
  /-- `SYNCBUF` (R25), oldest first -/
  syncbuf : List Frame
  /-- `ASYNCBUF` (R26), oldest first -/
  asyncbuf : List Frame
  /-- `DRAIN` (R27) -/
  drain : Bool
  /-- `RUN` (R28) -/
  run : Bool
  /-- the host callers (R306) with their waiter contexts (R29) -/
  callers : List Caller
  /-- `EVLOG` (R30), oldest first -/
  evlog : List Event
  /-- `TXS` (R50): the bytes the transport has accepted -/
  txs : Bytes
  /-- `RXS` (R50): the bytes the transport still holds -/
  rxs : Bytes
  /-- the answers to the coming TReads (R300); none means the transport does not answer yet -/
  rxAnswers : List ReadAnswer
  /-- the answers to the coming TWrites (R301); none means the transport does not answer yet -/
  txAnswers : List WriteAnswer
  /-- the cause trace (R288) -/
  trace : List Cause
  /-- the refusal mark (R287) -/
  refusal : Bool
  /-- the results returned to callers (R79) -/
  results : List Answer
  /-- how many free values were drawn; the model's own (log 7) -/
  draws : Nat
  /-- the caller whose step this is; the model's own (log 5) -/
  actor : Nat
  /-- the moves to come; the model's own (log 4) -/
  sched : List Move
deriving DecidableEq, Repr

/-- The faults: NONE. No condition of this engine halts a worker (93_implementation_defined.md, R290); raised by
nobody, so there is nothing to call safe or unsafe (log 19). -/
inductive Fault
deriving DecidableEq, Repr

/-- The refusals of the model. -/
inductive Refusal where
  /-- an instruction without a meaning: raised by an arm of `exec` only, and by none now. Safe. -/
  | notModelled (mnemonic : String)
deriving DecidableEq, Repr

/-- The machine right after reset (R320, R321): every element of R20 as R320 says, nothing at the transport, no
caller and nothing scheduled (log 3). -/
def State.reset : State where
  cfg := Config.default
  seq := Config.default.seqReset
  txq := []
  phaseTxw := .idle
  txcur := none
  phaseRxf := .hdr
  abuf := []
  syncbuf := []
  asyncbuf := []
  drain := false
  run := false
  callers := []
  evlog := []
  txs := []
  rxs := []
  rxAnswers := []
  txAnswers := []
  trace := []
  refusal := false
  results := []
  draws := 0
  actor := 0
  sched := []

end Sys2Proof.Machine
end

