-- ==== Sys2Proof/Machine/Operands.lean ====
section
/-! DEFINITION. What the steps compute from their operands and from the state before the step, without writing:
`need`, the match predicate, the free permutation, the error payloads and the cause codes. -/

namespace Sys2Proof.Machine

/-- The code of a cause (R280). -/
def Cause.code : Cause → Byte
  | .txIoError => 0x01
  | .txShortWrite _ => 0x02
  | .rxIoError => 0x03
  | .rxChecksumMismatch => 0x04
  | .rxUnknownMarker _ => 0x05
  | .asyncUnrecognisedShape _ => 0x06
  | .syncTimeout => 0x07
  | .decodeLenMismatch => 0x08
  | .encodeBodyTooLong _ => 0x09
  | .illegalOp _ => 0x0A
  | .syncbufOverflow => 0x0B
  | .asyncbufOverflow => 0x0C

/-- The payload of the error event of a short write of `n` bytes: `[0x02, n[15:8], n[7:0]]` (R282). -/
def shortWritePayload (n : Nat) : Bytes :=
  [(Cause.txShortWrite n).code, BitVec.ofNat 8 (n / 256), BitVec.ofNat 8 n]

/-- The bytes the framer still needs for the current part of the frame (R24). -/
def need (p : RxPhase) (abuf : Bytes) : Nat :=
  match p with
  | .hdr => hdrLen - abuf.length
  | .body => hdrLen + bodyLen abuf - abuf.length
  | .chk => hdrLen + bodyLen abuf + 1 - abuf.length

/-- `Match(e, w)` for the sequence byte of `w` (R201). -/
def matchesKey (threshold : Nat) (key : Byte) (e : Frame) : Bool :=
  seqByte e == key && threshold < e.length

/-- The first entry, from index 0 up, that satisfies `p`, and the entries without it (R202, R203). -/
def takeFirst (p : Frame → Bool) : List Frame → Option (Frame × List Frame)
  | [] => none
  | e :: es =>
    if p e then some (e, es)
    else match takeFirst p es with
      | some (x, rest) => some (x, e :: rest)
      | none => none

/-- `x` put in at place `k`, at the end when the list is shorter. -/
def insertAt (x : Frame) : Nat → List Frame → List Frame
  | _, [] => [x]
  | 0, y :: ys => x :: y :: ys
  | k + 1, y :: ys => y :: insertAt x k ys

/-- `Permute(B, p)` (R10, R204) with `p` given by a code: the last of its mixed-radix digits places the first entry
among the others. Every order of the list is `permute n` of it for some `n` (`Laws.permute_reaches`). -/
def permute (n : Nat) : List Frame → List Frame
  | [] => []
  | x :: xs => insertAt x (n % (xs.length + 1)) (permute (n / (xs.length + 1)) xs)

/-- The count a write answer stands for (R133): `none` for `ERR`. A count above the frame's length is no legal
answer and stands for the whole frame (log 6). -/
def acceptedCount (a : WriteAnswer) (f : Frame) : Option Nat :=
  match a with
  | .all => some f.length
  | .upTo n => some (min n f.length)
  | .err => none

/-- The code byte that labels an internal step (R80). -/
def Label.code : Label → Byte
  | .txTake => 0x80
  | .txWrite => 0x81
  | .rx => 0x82
  | .poll _ => 0x83
  | .async => 0x84

end Sys2Proof.Machine
end

