-- ==== Sys2Proof/Machine/Flags.lean ====
section
/-! DEFINITION. The flags RUN and DRAIN (R27, R28) and the enabling conditions the steps read from them, from the
phases and from the depths. The engine has no condition codes (R32). -/

namespace Sys2Proof.Machine

/-- `len(q) < d`, decided along the queue (R130, R131); `Laws.hasRoom_iff` says it. -/
def hasRoom : List Frame → Nat → Bool
  | _, 0 => false
  | [], _ + 1 => true
  | _ :: q, d + 1 => hasRoom q d

/-- Whether SEND is enabled: `len(TXQ) < TXQ_DEPTH` (R130). -/
def State.txqHasRoom (s : State) : Bool := hasRoom s.txq s.cfg.txqDepth

/-- Whether a buffer stands at its finite depth: `len(B) = DEPTH` (R25, R26). -/
def atDepth (depth : Option Nat) (b : List Frame) : Bool := depth == some b.length

/-- TX_STEP_TAKE's condition on the flags and the phase (R132). -/
def State.takeReady (s : State) : Bool := s.run && s.phaseTxw == .idle

/-- TX_STEP_WRITE's condition on the flags and the phase (R134). -/
def State.writeReady (s : State) : Bool := s.run && s.phaseTxw == .busy

/-- ASYNC_STEP's condition (R232). -/
def State.drainReady (s : State) : Bool := s.run && s.drain

/-- TICK's write of DRAIN (R230): only while RUN = 1; a drain in progress goes on. -/
def State.tickDrain (s : State) : State := { s with drain := s.run || s.drain }

/-- START's write of RUN (R260, R261). -/
def State.startRun (s : State) : State := { s with run := true }

end Sys2Proof.Machine
end

