-- ==== Sys2Proof/Machine/Ops.lean ====
section
/-! DEFINITION. The named operations the meanings share: raising a cause (the engine's whole exception mechanism,
R288 to R291), the event log, results, refusals, the bounded pushes, COMMIT and ROUTE, CLASSIFY, one write to the
transport, and Reset. -/

namespace Sys2Proof.Machine

/-- What a meaning answers. -/
abbrev Out := Host.Outcome State Fault Refusal

/-- A hold: the step is not enabled, so nothing changes (R10, R308; log 4). -/
def hold (s : State) : Out := .next s

/-! ### Causes: the engine's exceptions -/

/-- `raise`: the cause is recorded in the trace (R288). It saves nothing, changes no mode and transfers control
nowhere; the raising rule goes on (R290). There is nothing to return from (R291). -/
def raise (c : Cause) (s : State) : State := { s with trace := s.trace ++ [c] }

/-- `Emit(topic, payload)` (R10, R30). -/
def emit (t : Topic) (payload : Bytes) (s : State) : State := { s with evlog := s.evlog ++ [⟨t, payload⟩] }

/-- A refused host operation: its cause is recorded, the refusal mark is set for the rest of the run, no engine
state is written and no result is returned (R287). -/
def refuse (c : Cause) (s : State) : State := { raise c s with refusal := true }

/-! ### The callers' side -/

/-- The step is caller `k`'s (log 5). -/
def actAs (k : Nat) (s : State) : State := { s with actor := k }

/-- The moves that remain once the first is taken (log 4). -/
def scheduled (ms : List Move) (s : State) : State := { s with sched := ms }

/-- The operation completes and returns its result byte string to the caller whose step this is (R79). -/
def answer (v : Bytes) (s : State) : State := { s with results := s.results ++ [⟨s.actor, v⟩] }

/-- What the caller whose step this is holds in from now on (R29, R131). -/
def setStatus (st : CallerStatus) (s : State) : State :=
  { s with callers := s.callers.modify s.actor (fun c => { c with status := st }) }

/-- The waiter context of the caller whose step this is, if it has one in `W_POLL` (R203). -/
def pollingWaiter (s : State) : Option Waiter :=
  match s.callers[s.actor]? with
  | some ⟨_, .waiting ⟨.poll, w, n⟩⟩ => some ⟨.poll, w, n⟩
  | _ => none

/-- `PushBack(TXQ, f)` (R130). -/
def enqueue (f : Frame) (s : State) : State := { s with txq := s.txq ++ [f] }

/-! ### The receive side -/

/-- `PushSync(f)` (R25): on a buffer at its finite depth the oldest entry is discarded first. -/
def pushSync (f : Frame) (s : State) : State :=
  if atDepth s.cfg.syncDepth s.syncbuf then
    raise .syncbufOverflow { s with syncbuf := s.syncbuf.drop 1 ++ [f] }
  else { s with syncbuf := s.syncbuf ++ [f] }

/-- `PushAsync(f)` (R26): on a buffer at its finite depth the oldest entry is discarded first. -/
def pushAsync (f : Frame) (s : State) : State :=
  if atDepth s.cfg.asyncDepth s.asyncbuf then
    raise .asyncbufOverflow { s with asyncbuf := s.asyncbuf.drop 1 ++ [f] }
  else { s with asyncbuf := s.asyncbuf ++ [f] }

/-- `ROUTE(f)`: the marker byte selects the buffer, any other value drops the frame (R167). -/
def route (f : Frame) (s : State) : State :=
  match rxClass f with
  | .sync => pushSync f s
  | .async => pushAsync f s
  | .other => raise (.rxUnknownMarker (marker f)) s

/-- What a complete frame is handed to once its checksum is validated; a mismatch drops it (R165, R166). -/
def ifValid (f : Frame) (pass : State → State) (s : State) : State :=
  if checksumMatches f then pass s else raise .rxChecksumMismatch s

/-- `COMMIT(f)` (R165). -/
def commit (f : Frame) (s : State) : State := ifValid f (route f) s

/-- The framer's phase after bytes were appended to ABUF; a complete frame is committed in the same step (R160). -/
def advanceFramer (s : State) : State :=
  match s.phaseRxf with
  | .hdr =>
    if s.abuf.length = hdrLen then { s with phaseRxf := if bodyLen s.abuf = 0 then .chk else .body } else s
  | .body => if s.abuf.length = hdrLen + bodyLen s.abuf then { s with phaseRxf := .chk } else s
  | .chk =>
    if s.abuf.length = hdrLen + 1 + bodyLen s.abuf then commit s.abuf { s with abuf := [], phaseRxf := .hdr } else s

/-- The bytes a read answered with at most `j` bytes returns: never more than the framer needs (R57, R300). -/
def bytesRead (j : Nat) (s : State) : Bytes := s.rxs.take (min j (need s.phaseRxf s.abuf))

/-- A read answered with bytes: they leave RXS, join ABUF, and the framer advances (R160, R162). -/
def absorb (r : Bytes) (s : State) : State :=
  advanceFramer { s with rxs := s.rxs.drop r.length, abuf := s.abuf ++ r }

/-- A read answered with `ERR` (R161, R283). -/
def readError (s : State) : State := raise .rxIoError { s with abuf := [], phaseRxf := .hdr }

/-! ### The dispatcher -/

/-- `CLASSIFY(e)` (R233). -/
def classify (e : Frame) (s : State) : State :=
  match shapeOf s.cfg.collTagIndex e with
  | .collision => emit .collision e s
  | .sample => emit .sensordata e s
  | .other => raise (.asyncUnrecognisedShape e.length) s

/-! ### The transmit side -/

/-- The worker is free again; the frame is not kept (R134, R135). -/
def txDone (s : State) : State := { s with txcur := none, phaseTxw := .idle }

/-- `TWrite(f)` with the transport's answer, and what R134 does with it (R56, R133, R281, R282). -/
def writeFrame (f : Frame) (a : WriteAnswer) (s : State) : State :=
  match acceptedCount a f with
  | none =>
    emit .error [Cause.txIoError.code]
      (raise .txIoError
        (txDone { s with txs := s.txs ++ f.take (Config.freePrefixLen s.draws), draws := s.draws + 1 }))
  | some n =>
    if n = f.length then txDone { s with txs := s.txs ++ f, seq := s.seq + 1 }
    else
      emit .error (shortWritePayload n)
        (raise (.txShortWrite n) (txDone { s with txs := s.txs ++ f.take n }))

/-- One write of the frame `f` by the transmit worker, held until the transport answers (R134). -/
def transmit (f : Frame) (s : State) : Out :=
  match s.txAnswers with
  | [] => hold s
  | a :: as => .next (writeFrame f a { s with txAnswers := as })

/-! ### Inputs from outside -/

/-- What the transport does between steps (R83, R300, R301). -/
def transportInput (t : TransportInput) (s : State) : State :=
  match t with
  | .bytes b => { s with rxs := s.rxs ++ b }
  | .readAnswer a => { s with rxAnswers := s.rxAnswers ++ [a] }
  | .writeAnswer a => { s with txAnswers := s.txAnswers ++ [a] }

/-- A caller at Reset: its waiter context is destroyed or its held SEND abandoned, without a result (R320, R322). -/
def abandon (c : Caller) : Caller := { c with status := .idle }

/-- The bytes of the current frame that the transport had accepted when Reset falls on an unanswered write. R322 says
that any such prefix stays on the wire and not which: a free draw, as for a write answered `ERR` (log 23). -/
def acceptedAtReset (s : State) : Bytes := (s.txcur.getD []).take (Config.freePrefixLen s.draws)

/-- RESET, all in one step (R320). The transport is not reset and keeps what it accepted of the current frame (R322;
log 23), and what the model keeps beside the state stays (log 18). -/
def resetEngine (s : State) : State :=
  { s with
    txs := s.txs ++ acceptedAtReset s
    draws := s.draws + 1
    seq := s.cfg.seqReset
    txq := []
    phaseTxw := .idle
    txcur := none
    phaseRxf := .hdr
    abuf := []
    syncbuf := []
    asyncbuf := []
    drain := false
    run := false
    callers := s.callers.map abandon
    evlog := [] }

end Sys2Proof.Machine
end

