-- ==== Sys2Proof/Machine/Async.lean ====
section
/-! DEFINITION. TICK, ASYNC_STEP (44_async_dispatch.md) and the async shapes ASYNC_COLLISION, ASYNC_SAMPLE and
ASYNC_OTHER (R76, R233). -/

namespace Sys2Proof.Machine

/-- TICK (R230). -/
def execTick (s : State) : Out := .next (answer [] s.tickDrain)

/-- ASYNC_STEP (R232): the newest frame is popped and classified, or the drain ends. -/
def execAsyncStep (s : State) : Out :=
  if s.drainReady then
    match s.asyncbuf.getLast? with
    | none => .next { s with drain := false }
    | some e => .next (classify e { s with asyncbuf := s.asyncbuf.dropLast })
  else hold s

/-- ASYNC_COLLISION: the collision event of a dispatched frame (R233). Like every part of ASYNC_STEP it needs
RUN = 1 and DRAIN = 1 (R232; log 11). -/
def execAsyncCollision (e : Frame) (s : State) : Out :=
  if s.drainReady then .next (emit .collision e s) else hold s

/-- ASYNC_SAMPLE: the sensor-data event of a dispatched frame (R233; log 11). -/
def execAsyncSample (e : Frame) (s : State) : Out :=
  if s.drainReady then .next (emit .sensordata e s) else hold s

/-- ASYNC_OTHER: a dispatched frame of neither shape is discarded; nothing is emitted (R233, R236; log 11). -/
def execAsyncOther (e : Frame) (s : State) : Out :=
  if s.drainReady then .next (raise (.asyncUnrecognisedShape e.length) s) else hold s

end Sys2Proof.Machine
end

