-- ==== Sys2Proof/Machine/Codec.lean ====
section
/-! DEFINITION. CKSUM, ENCODE and DECODE (40_codec.md). They write no engine state; only ENCODE reads SEQ. -/

namespace Sys2Proof.Machine

/-- CKSUM (R100). -/
def execCksum (b : Bytes) (s : State) : Out := .next (answer [cksum b] s)

/-- ENCODE (R102); a body the length byte cannot count is refused (R103). -/
def execEncode (dev cmd : Byte) (body : Bytes) (s : State) : Out :=
  if body.length ≤ maxBody then .next (answer (buildFrame dev cmd s.seq body) s)
  else .next (refuse (.encodeBodyTooLong body.length) s)

/-- DECODE (R105); the length check comes before the checksum check (R106, R289 (c)). -/
def execDecode (h body : Bytes) (chk : Byte) (s : State) : Out :=
  if body.length ≠ bodyLen h then
    .next (answer [Cause.decodeLenMismatch.code] (raise .decodeLenMismatch s))
  else
    let f := h ++ body ++ [chk]
    if checksumMatches f then .next (answer ([0x00] ++ f) s)
    else .next (answer [Cause.rxChecksumMismatch.code] (raise .rxChecksumMismatch s))

end Sys2Proof.Machine
end

