-- ==== Sys2Proof/Machine/Collector.lean ====
section
/-! DEFINITION. SYNC_REQ and SYNC_POLL (43_sync_collector.md). -/

namespace Sys2Proof.Machine

/-- SYNC_REQ (R200): the waiter context is created and its frame sent; on a full queue it holds in `W_SEND`. The
retry of a held request is the same operation on the same frame (log 21). -/
def execSyncReq (w : Frame) (s : State) : Out :=
  if s.txqHasRoom then .next (setStatus (.waiting ⟨.poll, w, 0⟩) (enqueue w s))
  else .next (setStatus (.waiting ⟨.send, w, 0⟩) s)

/-- A poll that found `e` and left `rest` in the buffer, whose order is then a free draw (R203, R204; log 7). -/
def pollHit (e : Frame) (rest : List Frame) (s : State) : State :=
  answer ([0x00] ++ e) (setStatus .idle
    { s with syncbuf := permute (Config.freePermutation s.draws) rest, draws := s.draws + 1 })

/-- The poll of the budget's last scan without a match: the empty result (R203, R205). -/
def pollTimeout (s : State) : State :=
  answer [Cause.syncTimeout.code] (setStatus .idle (raise .syncTimeout s))

/-- SYNC_POLL (R203): one scan for the caller whose step this is. It does not depend on RUN. -/
def execSyncPoll (s : State) : Out :=
  match pollingWaiter s with
  | none => hold s
  | some w =>
    match takeFirst (matchesKey s.cfg.syncLenThreshold (seqByte w.frame)) s.syncbuf with
    | some (e, rest) => .next (pollHit e rest s)
    | none =>
      if w.polls + 1 = syncPolls then .next (pollTimeout s)
      else .next (setStatus (.waiting ⟨.poll, w.frame, w.polls + 1⟩) s)

end Sys2Proof.Machine
end

