-- ==== Sys2Proof/Machine/Control.lean ====
section
/-! DEFINITION. START (45_control.md) and the refusal of reserved operation codes (R81, R287). -/

namespace Sys2Proof.Machine

/-- START (R260); a second START has no effect on the engine (R261). -/
def execStart (s : State) : Out := .next (answer [] s.startRun)

/-- RESERVED: refused with ILLEGAL_OP (R81, R287; log 9). -/
def execReserved (op : Byte) (s : State) : Out := .next (refuse (.illegalOp (some op)) s)

end Sys2Proof.Machine
end

