-- ==== Sys2Proof/Machine/Receive.lean ====
section
/-! DEFINITION. RX_STEP (42_receive_framer.md) and the received frame classes FRAME_RX_SYNC, FRAME_RX_ASYNC and
FRAME_RX_OTHER (R74, R165 to R168). -/

namespace Sys2Proof.Machine

/-- RX_STEP (R160): one read of the receive stream, held until the transport answers. -/
def execRxStep (s : State) : Out :=
  if s.run then
    match s.rxAnswers with
    | [] => hold s
    | .err :: as => .next (readError { s with rxAnswers := as })
    | .upTo j :: as => .next (absorb (bytesRead j s) { s with rxAnswers := as })
  else hold s

/-- FRAME_RX_SYNC: a complete frame with the sync marker, validated and pushed onto SYNCBUF (R165, R167). Like every
part of RX_STEP it needs RUN = 1 (R28; log 11). -/
def execFrameRxSync (f : Frame) (s : State) : Out :=
  if s.run then .next (ifValid f (pushSync f) s) else hold s

/-- FRAME_RX_ASYNC: a complete frame with the async marker, validated and pushed onto ASYNCBUF (R165, R167; log 11). -/
def execFrameRxAsync (f : Frame) (s : State) : Out :=
  if s.run then .next (ifValid f (pushAsync f) s) else hold s

/-- FRAME_RX_OTHER: a complete frame with any other marker, validated and dropped (R165, R167, R285; log 11). -/
def execFrameRxOther (f : Frame) (s : State) : Out :=
  if s.run then .next (ifValid f (raise (.rxUnknownMarker (marker f))) s) else hold s

end Sys2Proof.Machine
end

