-- ==== Sys2Proof/Machine/Transmit.lean ====
section
/-! DEFINITION. SEND, TX_STEP_TAKE, TX_STEP_WRITE (41_transmit.md) and the transmitted frame class FRAME_TX. -/

namespace Sys2Proof.Machine

/-- SEND (R130): the frame joins TXQ; on a full queue the caller holds in it, with no cause (R131). -/
def execSend (f : Frame) (s : State) : Out :=
  if s.txqHasRoom then .next (answer [] (setStatus .idle (enqueue f s)))
  else .next (setStatus (.holding f) s)

/-- TX_STEP_TAKE (R132): the oldest frame becomes the current one. -/
def execTxStepTake (s : State) : Out :=
  if s.takeReady then
    match s.txq with
    | [] => hold s
    | f :: q => .next { s with txq := q, txcur := some f, phaseTxw := .busy }
  else hold s

/-- TX_STEP_WRITE (R134). -/
def execTxStepWrite (s : State) : Out :=
  if s.writeReady then
    match s.txcur with
    | none => hold s
    | some f => transmit f s
  else hold s

/-- FRAME_TX (R70): the frame goes out on the wire, which it does exactly while it is the transmit worker's current
frame (R134; log 11). -/
def execFrameTx (f : Frame) (s : State) : Out :=
  if s.writeReady && s.txcur == some f then transmit f s else hold s

end Sys2Proof.Machine
end

