-- ==== Sys2Proof/Machine/Dispatch.lean ====
section
/-! DEFINITION. One arm per constructor of Instr, each one call of its meaning. -/

namespace Sys2Proof.Machine

def exec (i : Instr) (s : State) : Host.Outcome State Fault Refusal :=
  match i with
  | .cksum b => Sys2Proof.Machine.execCksum b s
  | .encode dev cmd body => Sys2Proof.Machine.execEncode dev cmd body s
  | .decode h body chk => Sys2Proof.Machine.execDecode h body chk s
  | .send f => Sys2Proof.Machine.execSend f s
  | .syncReq w => Sys2Proof.Machine.execSyncReq w s
  | .tick => Sys2Proof.Machine.execTick s
  | .start => Sys2Proof.Machine.execStart s
  | .txStepTake => Sys2Proof.Machine.execTxStepTake s
  | .txStepWrite => Sys2Proof.Machine.execTxStepWrite s
  | .rxStep => Sys2Proof.Machine.execRxStep s
  | .syncPoll => Sys2Proof.Machine.execSyncPoll s
  | .asyncStep => Sys2Proof.Machine.execAsyncStep s
  | .reserved op => Sys2Proof.Machine.execReserved op s
  | .frameTx f => Sys2Proof.Machine.execFrameTx f s
  | .frameRxSync f => Sys2Proof.Machine.execFrameRxSync f s
  | .frameRxAsync f => Sys2Proof.Machine.execFrameRxAsync f s
  | .frameRxOther f => Sys2Proof.Machine.execFrameRxOther f s
  | .asyncCollision e => Sys2Proof.Machine.execAsyncCollision e s
  | .asyncSample e => Sys2Proof.Machine.execAsyncSample e s
  | .asyncOther e => Sys2Proof.Machine.execAsyncOther e s

end Sys2Proof.Machine
end

