-- ==== Sys2Proof/Machine/Fetch.lean ====
section
/-! DEFINITION. How a schedule entry becomes an instruction: a caller issues the operation its program holds next
(R78, R81, R84, R306), an agent takes its labelled step (R80), the transport acts, or Reset comes (R320). -/

namespace Sys2Proof.Machine

/-- The instruction an internal step's label stands for (R80). -/
def Label.instr : Label → Instr
  | .txTake => .txStepTake
  | .txWrite => .txStepWrite
  | .rx => .rxStep
  | .poll _ => .syncPoll
  | .async => .asyncStep

/-- The caller a labelled step belongs to: a poll is its caller's, a worker's step is nobody's. -/
def Label.actor (l : Label) (s : State) : Nat :=
  match l with
  | .poll k => k
  | .txTake | .txWrite | .rx | .async => s.actor

/-- The op byte of a rejected host operation, for ILLEGAL_OP's info (R280). -/
def opByte (bs : Bytes) : Option Byte := bs.head?

/-- The caller whose step this is moves past its next operation. -/
def dropOperation (s : State) : State :=
  { s with callers := s.callers.modify s.actor (fun c => { c with prog := c.prog.tail }) }

/-- The operation that the caller whose step this is issues next from now on. -/
def pushOperation (o : HostOp) (s : State) : State :=
  { s with callers := s.callers.modify s.actor (fun c => { c with prog := o :: c.prog }) }

/-- The second operation of a pseudo-operation, on the frame the first returned (R84). -/
def Pseudo.second (p : Pseudo) (f : Frame) : Instr :=
  match p with
  | .encSend => .send f
  | .encSync => .syncReq f

/-- The result that the step from `s` to `t` returned becomes the operand of the second operation, which the caller
issues next (R84); a refused ENCODE returned none, so there is no second operation (log 24). -/
def passResult (p : Pseudo) (s t : State) : State :=
  match t.results.drop s.results.length with
  | [] => t
  | a :: _ => pushOperation (.bytes (encode (p.second a.value))) t

/-- An idle caller issues the first operation of a pseudo-operation, ENCODE (R84). Other agents' steps may come before
its second, which is its next move. -/
def issuePseudo (p : Pseudo) (dev cmd : Byte) (body : Bytes) (s : State) : Out :=
  match exec (.encode dev cmd body) (dropOperation s) with
  | .next t => .next (passResult p (dropOperation s) t)
  | .fault r => .fault r
  | .refused r => .refused r

/-- An idle caller issues an operation: it runs as its bytes decode, and bytes that are no operation are refused
with ILLEGAL_OP (R81, R287). -/
def issue (bs : Bytes) (s : State) : Out :=
  match decodeHost bs with
  | .ok i => exec i (dropOperation s)
  | .error _ => .next (refuse (.illegalOp (opByte bs)) (dropOperation s))

/-- The move of the host caller whose step this is: it issues its next operation, retries the SEND or the `W_SEND`
step it holds in, and otherwise waits (R131, R200, R306). -/
def hostMove (s : State) : Out :=
  match s.callers[s.actor]? with
  | none => hold s
  | some c =>
    match c.status with
    | .holding f => exec (.send f) s
    | .waiting ⟨.send, w, _⟩ => exec (.syncReq w) s
    | .waiting ⟨.poll, _, _⟩ => hold s
    | .idle =>
      match c.prog with
      | [] => hold s
      | .bytes bs :: _ => issue bs s
      | .pseudo p dev cmd body :: _ => issuePseudo p dev cmd body s

/-- One move of the schedule (R11, R59). -/
def runMove (m : Move) (s : State) : Out :=
  match m with
  | .host k => hostMove (actAs k s)
  | .agent l => exec l.instr (actAs (l.actor s) s)
  | .transport t => .next (transportInput t s)
  | .reset => .next (resetEngine s)

/-- The label of an internal step's instruction; a poll is the present caller's. -/
def labelOf (code : Byte) (s : State) : Label :=
  match code.toNat with
  | 0x80 => .txTake
  | 0x81 => .txWrite
  | 0x82 => .rx
  | 0x83 => .poll s.actor
  | _ => .async

/-- Everything it takes for the next step to run the instruction of these bytes (log 13): a new caller holding the
operation; the label; the worker in the middle of its frame; the framer one byte short of the frame; or the
dispatcher with the frame on top. -/
def placeBytes (l : Layer) (bs : Bytes) (s : State) : State :=
  match l with
  | .host =>
    { s with callers := s.callers ++ [⟨[.bytes bs], .idle⟩], sched := .host s.callers.length :: s.sched }
  | .label => { s with sched := .agent (labelOf (byteAt bs 0) s) :: s.sched }
  | .wireTx =>
    { s with
      run := true, phaseTxw := .busy, txcur := some bs, txAnswers := .all :: s.txAnswers
      sched := .agent .txWrite :: s.sched }
  | .wireRx =>
    { s with
      run := true, phaseRxf := .chk, abuf := bs.dropLast, rxs := chkByte bs :: s.rxs
      rxAnswers := .upTo 1 :: s.rxAnswers, sched := .agent .rx :: s.sched }
  | .shape =>
    { s with run := true, drain := true, asyncbuf := s.asyncbuf ++ [bs], sched := .agent .async :: s.sched }

/-- The word of a table row placed where the next step finds it (log 12, log 13). -/
def placeTableWord (s : State) (nbits w : Nat) : State :=
  let t := tableBytes nbits w
  placeBytes t.1 t.2 s

end Sys2Proof.Machine
end

