-- ==== Sys2Proof/Machine/Step.lean ====
section
/-! DEFINITION. One step of the machine: the next move of the schedule. -/

namespace Sys2Proof.Machine

/-- With nothing scheduled nobody moves (R308; log 4); otherwise the schedule's first entry does. -/
def step (s : State) : Host.Outcome State Fault Refusal :=
  match s.sched with
  | [] => .next s
  | m :: ms => runMove m (scheduled ms s)

/-- `s` with the instruction of a table word where the next step fetches it. -/
def State.withFetchWord (s : State) (nbits w : Nat) : State := placeTableWord s nbits w

end Sys2Proof.Machine
end

