-- ==== Sys2Proof/Safety.lean ====
section
/-! DEFINITION. What the claims speak of: the invariant of the engine, a run without refusal, full writes counted
along a run, the cut of a byte stream into frames, and the events of a drain. -/

/-- A legal build: every finite depth is at least 1 (R6; log 17). -/
def Sys2Proof.Config.legal (c : Sys2Proof.Config) : Bool :=
  0 < c.txqDepth && c.syncDepth != some 0 && c.asyncDepth != some 0

namespace Sys2Proof.Machine

/-! ### The invariant -/

/-- TXCUR holds a frame exactly in `TX_BUSY` (R23). -/
def State.txPhaseOk (s : State) : Bool := (s.phaseTxw == .busy) == s.txcur.isSome

/-- ABUF holds what its phase says: part of a header; a header and part of a non-empty body; all but the checksum
(R24, R163, R164). -/
def State.rxPhaseOk (s : State) : Bool :=
  match s.phaseRxf with
  | .hdr => s.abuf.length < hdrLen
  | .body => hdrLen ≤ s.abuf.length && s.abuf.length < hdrLen + bodyLen s.abuf
  | .chk => s.abuf.length == hdrLen + bodyLen s.abuf

/-- A whole frame with a good checksum and the marker of its buffer (R25, R26). -/
def entryOk (c : RxClass) (f : Frame) : Bool := lengthMatches f && checksumMatches f && rxClass f == c

/-- A buffer within its depth (R25, R26). -/
def withinDepth (depth : Option Nat) (b : List Frame) : Bool :=
  match depth with
  | none => true
  | some d => b.length ≤ d

/-- Every waiter context has polls left: 0 to 499 done (R29, R203). -/
def waiterOk (c : Caller) : Bool :=
  match c.status with
  | .waiting w => w.polls < syncPolls
  | .idle | .holding _ => true

/-- The invariant every step keeps. -/
structure State.Inv (s : State) : Prop where
  legal : s.cfg.legal = true
  txPhase : s.txPhaseOk = true
  rxPhase : s.rxPhaseOk = true
  txqBound : s.txq.length ≤ s.cfg.txqDepth
  syncEntries : ∀ f ∈ s.syncbuf, entryOk .sync f = true
  asyncEntries : ∀ f ∈ s.asyncbuf, entryOk .async f = true
  syncBound : withinDepth s.cfg.syncDepth s.syncbuf = true
  asyncBound : withinDepth s.cfg.asyncDepth s.asyncbuf = true
  waiters : ∀ c ∈ s.callers, waiterOk c = true

/-- A run without refusal: the premise R287 asks a claim about the engine to take. -/
def State.noRefusal (s : State) : Prop := s.refusal = false

/-! ### Enabling -/

/-- Whether an instruction's step is enabled (R62): the flags, the phase, something to work on, and the transport's
answer. A host operation always is: a SEND or SYNC_REQ on a full queue takes its caller into the hold. -/
def enables (i : Instr) (s : State) : Bool :=
  match i with
  | .cksum _ | .encode _ _ _ | .decode _ _ _ | .send _ | .syncReq _ | .tick | .start | .reserved _ => true
  | .txStepTake => s.takeReady && !s.txq.isEmpty
  | .txStepWrite => s.writeReady && s.txcur.isSome && !s.txAnswers.isEmpty
  | .frameTx f => s.writeReady && s.txcur == some f && !s.txAnswers.isEmpty
  | .rxStep => s.run && !s.rxAnswers.isEmpty
  | .syncPoll => (pollingWaiter s).isSome
  | .asyncStep | .asyncCollision _ | .asyncSample _ | .asyncOther _ => s.drainReady
  | .frameRxSync _ | .frameRxAsync _ | .frameRxOther _ => s.run

/-! ### Runs -/

/-- `n` steps, as `Host.Core.run` takes them (`Laws.runSteps_eq_run`). -/
def runSteps : Nat → State → Out
  | 0, s => .next s
  | n + 1, s =>
    match step s with
    | .next t => runSteps n t
    | .fault r => .fault r
    | .refused r => .refused r

/-! ### Full writes along a run (R136) -/

/-- Whether the next step is a TX_STEP_WRITE that the transport answers with the whole frame (R133 (1)). -/
def nextIsFullWrite (s : State) : Bool :=
  match s.sched, s.txcur, s.txAnswers with
  | .agent .txWrite :: _, some f, a :: _ => s.writeReady && acceptedCount a f == some f.length
  | _, _, _ => false

/-- The full writes among the next `n` steps. -/
def fullWrites : Nat → State → Nat
  | 0, _ => 0
  | n + 1, s =>
    (if nextIsFullWrite s then 1 else 0) +
      match step s with
      | .next t => fullWrites n t
      | .fault _ => 0
      | .refused _ => 0

/-! ### The cut of a stream into frames (R169) -/

/-- `Cut(s)` with a bound on the number of frames, for structural recursion. -/
def cutFrames : Nat → Bytes → List Frame × Bytes
  | 0, s => ([], s)
  | k + 1, s =>
    if s.length < 6 then ([], s)
    else if s.length < 7 + bodyLen s then ([], s)
    else
      let r := cutFrames k (s.drop (7 + bodyLen s))
      (s.take (7 + bodyLen s) :: r.1, r.2)

/-- `Cut(s)` (R169): a frame takes seven bytes or more, so the stream's length bounds their number. -/
def cut (s : Bytes) : List Frame × Bytes := cutFrames s.length s

/-! ### A drain (R235) -/

/-- The event CLASSIFY emits for a frame, if any (R233). -/
def eventOf (tagIndex : Nat) (e : Frame) : Option Event :=
  match shapeOf tagIndex e with
  | .collision => some ⟨.collision, e⟩
  | .sample => some ⟨.sensordata, e⟩
  | .other => none

/-- The cause CLASSIFY raises for a frame, if any (R233). -/
def discardOf (tagIndex : Nat) (e : Frame) : Option Cause :=
  match shapeOf tagIndex e with
  | .other => some (.asyncUnrecognisedShape e.length)
  | .collision | .sample => none

/-! ### The transmit pipeline (R138) -/

/-- The bytes written, being written and queued, in the order the transport gets them while every write is full. -/
def State.transmitLine (s : State) : Bytes := s.txs ++ s.txcur.getD [] ++ s.txq.flatten

end Sys2Proof.Machine
end

