-- ==== Sys2Proof/Certificates/Slice0/Obligations.lean ====
section
/-! DEFINITION. The statements for the provers. A statement is about every state, so about every value of the
parameters in `cfg`, every schedule and every behaviour of the transport, unless it says otherwise. -/

open Sys2Proof Sys2Proof.Machine

/-! ### The codec -/

/-- R100: CKSUM returns 255 less the sum mod 256 as its one result byte and changes nothing else; its corner cases;
its code 0x01. -/
def Obligations.CksumReturnsComplementOfSum : Prop :=
  (∀ (b : Bytes) (s : State),
    exec (.cksum b) s =
      .next { s with results := s.results ++ [⟨s.actor, [BitVec.ofNat 8 (255 - (b.map BitVec.toNat).sum % 256)]⟩] }) ∧
  (∀ b : Bytes, (encode (.cksum b)).head? = some 0x01) ∧
  (∀ b : Bytes, (cksum b).toNat = 255 - (b.map BitVec.toNat).sum % 256) ∧
  cksum [] = 0xFF ∧
  (∀ b : Bytes, (b.map BitVec.toNat).sum % 256 = 0 → cksum b = 0xFF) ∧
  (∀ b : Bytes, (b.map BitVec.toNat).sum % 256 = 255 → cksum b = 0x00) ∧
  (∀ b b' : Bytes, b.Perm b' → cksum b = cksum b') ∧
  (∀ b b' : Bytes, cksum (b ++ 0x00 :: b') = cksum (b ++ b'))

/-- R101, which the spec derives from R100: (a) the complement law; (b) one changed byte always changes CKSUM;
(c) two changes whose differences cancel, a swap of two bytes among them, never do. -/
def Obligations.ChecksumLaws : Prop :=
  (∀ b : Bytes, ((b.map BitVec.toNat).sum + (cksum b).toNat) % 256 = 255) ∧
  (∀ (b b' : Bytes) (x y : Byte), x ≠ y → cksum (b ++ x :: b') ≠ cksum (b ++ y :: b')) ∧
  (∀ (b b' b'' : Bytes) (x y x' y' : Byte), x + y = x' + y' →
    cksum (b ++ x :: (b' ++ y :: b'')) = cksum (b ++ x' :: (b' ++ y' :: b'')))

/-- R102: the frame ENCODE returns for every body the host encoding can express, stamped with the present SEQ, and
that it writes nothing. A body of 256 bytes or more, which only an abstract operand can be, is refused: no result, the
engine's state unchanged (the spec's decision D3, R103; the refusal as a next state with its mark is log 9). -/
def Obligations.EncodeReturnsStampedFrame : Prop :=
  (∀ (dev cmd : Byte) (body : Bytes) (s : State), body.length ≤ 255 →
    exec (.encode dev cmd body) s =
      .next { s with results := s.results ++ [⟨s.actor,
        [0xFF, 0xFF, dev, cmd, s.seq, BitVec.ofNat 8 body.length] ++ body ++
          [cksum ([dev, cmd, s.seq, BitVec.ofNat 8 body.length] ++ body)]⟩] }) ∧
  (∀ (dev cmd : Byte) (body : Bytes) (s : State), 255 < body.length →
    exec (.encode dev cmd body) s =
      .next { s with trace := s.trace ++ [.encodeBodyTooLong body.length], refusal := true }) ∧
  (∀ (dev cmd : Byte) (body : Bytes), (encode (.encode dev cmd body)).head? = some 0x02)

/-- R107 and R104, which the spec derives: DECODE, by any caller in any state, of the parts of the frame ENCODE
returned answers VALID of that frame, and the fields are those that went in. -/
def Obligations.DecodeOfEncodeIsValid : Prop :=
  ∀ (dev cmd : Byte) (body : Bytes) (s : State), body.length ≤ 255 →
    ∃ f : Frame,
      exec (.encode dev cmd body) s = .next { s with results := s.results ++ [⟨s.actor, f⟩] } ∧
      (∀ t : State, exec (.decode (f.take 6) ((f.drop 6).dropLast) (byteAt f (f.length - 1))) t =
        .next { t with results := t.results ++ [⟨t.actor, 0x00 :: f⟩] }) ∧
      lengthMatches f = true ∧ checksumMatches f = true ∧
      byteAt f 0 = 0xFF ∧ byteAt f 1 = 0xFF ∧ byteAt f 2 = dev ∧ byteAt f 3 = cmd ∧ byteAt f 4 = s.seq ∧
      (byteAt f 5).toNat = body.length ∧ (f.drop 6).dropLast = body

/-- R105: DECODE's three results, the length check first, with their causes, and that it writes nothing else. -/
def Obligations.DecodeValidatesLengthThenChecksum : Prop :=
  ∀ (h body : Bytes) (chk : Byte) (s : State), h.length = 6 →
    (body.length ≠ (byteAt h 5).toNat →
      exec (.decode h body chk) s =
        .next { s with
          results := s.results ++ [⟨s.actor, [0x08]⟩], trace := s.trace ++ [.decodeLenMismatch] }) ∧
    (body.length = (byteAt h 5).toNat → chk ≠ cksum (h.drop 2 ++ body) →
      exec (.decode h body chk) s =
        .next { s with
          results := s.results ++ [⟨s.actor, [0x04]⟩], trace := s.trace ++ [.rxChecksumMismatch] }) ∧
    (body.length = (byteAt h 5).toNat → chk = cksum (h.drop 2 ++ body) →
      exec (.decode h body chk) s =
        .next { s with results := s.results ++ [⟨s.actor, 0x00 :: (h ++ body ++ [chk])⟩] }) ∧
    (encode (.decode h body chk)).head? = some 0x03

/-- R108, which the spec derives: one changed byte of a well-formed frame, from the device id on, is always found, the
length byte by the length check and any other by the checksum. -/
def Obligations.DecodeFindsOneChangedByte : Prop :=
  ∀ (f : Frame) (i : Nat) (y : Byte) (s : State),
    lengthMatches f = true → checksumMatches f = true → 2 ≤ i → i < f.length → y ≠ byteAt f i →
    exec (.decode ((f.set i y).take 6) (((f.set i y).drop 6).dropLast) (byteAt (f.set i y) (f.length - 1))) s =
      .next (if i = 5 then
          { s with results := s.results ++ [⟨s.actor, [0x08]⟩], trace := s.trace ++ [.decodeLenMismatch] }
        else
          { s with results := s.results ++ [⟨s.actor, [0x04]⟩], trace := s.trace ++ [.rxChecksumMismatch] })

/-! ### The transmit path -/

/-- R130: SEND joins the end of TXQ, whatever the frame holds and whatever RUN is; on a full queue the caller holds in
it, with no cause and no result. That the held frame stands in its caller's status is log 14. -/
def Obligations.SendEnqueuesOrHolds : Prop :=
  ∀ (f : Frame) (s : State),
    (s.txq.length < s.cfg.txqDepth →
      exec (.send f) s =
        .next { s with
          txq := s.txq ++ [f]
          callers := s.callers.modify s.actor (fun c => { c with status := .idle })
          results := s.results ++ [⟨s.actor, []⟩] }) ∧
    (s.cfg.txqDepth ≤ s.txq.length →
      exec (.send f) s =
        .next { s with callers := s.callers.modify s.actor (fun c => { c with status := .holding f }) }) ∧
    (encode (.send f)).head? = some 0x04

/-- R131: a held SEND changes nothing while TXQ is full, and is performed by its caller's next move once there is
room. -/
def Obligations.HeldSendWaitsForRoom : Prop :=
  ∀ (s : State) (k : Nat) (ms : List Move) (prog : List HostOp) (f : Frame),
    s.sched = .host k :: ms → s.callers[k]? = some ⟨prog, .holding f⟩ →
    (s.cfg.txqDepth ≤ s.txq.length → step s = .next { s with sched := ms, actor := k }) ∧
    (s.txq.length < s.cfg.txqDepth →
      step s =
        .next { s with
          sched := ms, actor := k, txq := s.txq ++ [f]
          callers := s.callers.set k ⟨prog, .idle⟩
          results := s.results ++ [⟨k, []⟩] })

/-- R132: TX_STEP_TAKE takes the oldest frame when RUN = 1, the worker is idle and TXQ is not empty, and otherwise
holds. -/
def Obligations.TakeDequeuesOldestFrame : Prop :=
  (∀ (s : State) (f : Frame) (q : List Frame), s.run = true → s.phaseTxw = .idle → s.txq = f :: q →
    exec .txStepTake s = .next { s with txq := q, txcur := some f, phaseTxw := .busy }) ∧
  (∀ s : State, s.run = false ∨ s.phaseTxw = .busy ∨ s.txq = [] → exec .txStepTake s = .next s)

/-- 41_transmit.md section 2 (R134): the four outcomes of TX_STEP_WRITE (a full write, a short write of n bytes, ERR, no
answer yet) and the hold when it is not enabled. Only the full write advances SEQ; only the failures emit, with the
payloads of R281 and R282 (decision D18). Which bytes reach TXS is R56 and R133 (decision D19): the first n of a short
write, and some prefix, a free draw, of one answered with ERR. The queue of answers is log 6, the counter of draws log 7. -/
def Obligations.WriteFollowsTransportAnswer : Prop :=
  (∀ (s : State) (f : Frame), s.run = true → s.phaseTxw = .busy → s.txcur = some f →
    (s.txAnswers = [] → exec .txStepWrite s = .next s) ∧
    (∀ (a : WriteAnswer) (as : List WriteAnswer), s.txAnswers = a :: as →
      (a = .all ∨ a = .upTo f.length →
        exec .txStepWrite s =
          .next { s with
            txs := s.txs ++ f, seq := s.seq + 1, txcur := none, phaseTxw := .idle, txAnswers := as }) ∧
      (∀ n, a = .upTo n → n < f.length →
        exec .txStepWrite s =
          .next { s with
            txs := s.txs ++ f.take n
            evlog := s.evlog ++ [⟨.error, [0x02, BitVec.ofNat 8 (n / 256), BitVec.ofNat 8 n]⟩]
            trace := s.trace ++ [.txShortWrite n]
            txcur := none, phaseTxw := .idle, txAnswers := as }) ∧
      (a = .err → ∃ p : Bytes, p <+: f ∧
        exec .txStepWrite s =
          .next { s with
            txs := s.txs ++ p
            evlog := s.evlog ++ [⟨.error, [0x01]⟩]
            trace := s.trace ++ [.txIoError]
            txcur := none, phaseTxw := .idle, txAnswers := as, draws := s.draws + 1 }))) ∧
  (∀ s : State, s.run = false ∨ s.phaseTxw = .idle → exec .txStepWrite s = .next s)

/-- The model's own corners of TX_STEP_WRITE, no rule of the spec: a count above the frame's length, which R133 calls no
legal answer, is taken as a full write (log 6), and a busy worker without a current frame, which no run reaches, holds
(log 15). -/
def Obligations.WriteCornersStayInBounds : Prop :=
  (∀ (s : State) (f : Frame) (n : Nat) (as : List WriteAnswer),
    s.run = true → s.phaseTxw = .busy → s.txcur = some f → s.txAnswers = .upTo n :: as → f.length < n →
    exec .txStepWrite s =
      .next { s with txs := s.txs ++ f, seq := s.seq + 1, txcur := none, phaseTxw := .idle, txAnswers := as }) ∧
  (∀ s : State, s.txcur = none → exec .txStepWrite s = .next s)

/-- FRAME_TX (the wire row of R70; the model's reading of it as an operation is log 11): the worker's current frame
goes out in full, SEQ advances, and nothing else changes; a frame that is not the current one does not go out. -/
def Obligations.FrameTxGoesOutWhole : Prop :=
  (∀ (s : State) (f : Frame) (as : List WriteAnswer),
    s.run = true → s.phaseTxw = .busy → s.txcur = some f → s.txAnswers = .all :: as →
    exec (.frameTx f) s =
      .next { s with txs := s.txs ++ f, seq := s.seq + 1, txcur := none, phaseTxw := .idle, txAnswers := as }) ∧
  (∀ (s : State) (f : Frame), s.txcur ≠ some f → exec (.frameTx f) s = .next s)

/-- R136, which the spec derives: over any run without a Reset, whatever else is interleaved, SEQ grows by exactly the
number of full writes, mod 256. -/
def Obligations.SeqCountsFullWrites : Prop :=
  ∀ (n : Nat) (s t : State), Move.reset ∉ s.sched → runSteps n s = .next t →
    t.seq = s.seq + BitVec.ofNat 8 (fullWrites n s)

/-- R138, which the spec derives: while writes are full, no step of any agent but Reset reorders or loses a frame
between TXQ and TXS; it only adds at the end. -/
def Obligations.TransmitOrderIsQueueOrder : Prop :=
  ∀ s t : State, s.txPhaseOk = true → step s = .next t → s.sched.head? ≠ some .reset →
    (s.sched.head? = some (.agent .txWrite) → s.txAnswers ≠ [] → s.writeReady = true → nextIsFullWrite s = true) →
    s.transmitLine <+: t.transmitLine

/-! ### The receive path -/

/-- R283: a read answered with ERR discards the partial frame, restarts the framer, and emits nothing. -/
def Obligations.ReadErrorDiscardsPartialFrame : Prop :=
  ∀ (s : State) (as : List ReadAnswer), s.run = true → s.rxAnswers = .err :: as →
    exec .rxStep s =
      .next { s with
        rxAnswers := as, abuf := [], phaseRxf := .hdr, trace := s.trace ++ [.rxIoError] }

/-- 42_receive_framer.md section 1 (R162, its empty read by decision D8): a read of fewer bytes than the framer needs,
none among them, joins ABUF and leaves the phase; with no answer yet, or RUN = 0, RX_STEP holds. -/
def Obligations.PartialReadKeepsPhase : Prop :=
  (∀ (s : State) (j : Nat) (as : List ReadAnswer) (r : Bytes),
    s.run = true → s.rxPhaseOk = true → s.rxAnswers = .upTo j :: as →
    r = s.rxs.take (min j (need s.phaseRxf s.abuf)) → r.length < need s.phaseRxf s.abuf →
    exec .rxStep s =
      .next { s with rxAnswers := as, rxs := s.rxs.drop r.length, abuf := s.abuf ++ r }) ∧
  (∀ s : State, s.run = false ∨ s.rxAnswers = [] → exec .rxStep s = .next s)

/-- 42_receive_framer.md section 1 (R160, R163, its separate checksum read by decision D5): the read that completes
the header moves to the body, or to the checksum when the body is empty; the one that completes the body moves to the
checksum. -/
def Obligations.CompletedPartMovesPhase : Prop :=
  ∀ (s : State) (j : Nat) (as : List ReadAnswer) (r : Bytes),
    s.run = true → s.rxPhaseOk = true → s.rxAnswers = .upTo j :: as →
    r = s.rxs.take (min j (need s.phaseRxf s.abuf)) → r.length = need s.phaseRxf s.abuf →
    (s.phaseRxf = .hdr →
      exec .rxStep s =
        .next { s with
          rxAnswers := as, rxs := s.rxs.drop r.length, abuf := s.abuf ++ r
          phaseRxf := if (byteAt (s.abuf ++ r) 5).toNat = 0 then .chk else .body }) ∧
    (s.phaseRxf = .body →
      exec .rxStep s =
        .next { s with
          rxAnswers := as, rxs := s.rxs.drop r.length, abuf := s.abuf ++ r, phaseRxf := .chk })

/-- R166: the read of a checksum byte that does not match drops the frame: no buffer, no event, and the framer resumes
with a header at the byte after it. -/
def Obligations.ChecksumMismatchDropsFrame : Prop :=
  ∀ (s : State) (j : Nat) (as : List ReadAnswer) (c : Byte) (rest : Bytes),
    s.run = true → s.rxPhaseOk = true → s.phaseRxf = .chk → s.rxAnswers = .upTo (j + 1) :: as → s.rxs = c :: rest →
    c ≠ cksum (s.abuf.drop 2) →
    exec .rxStep s =
      .next { s with
        rxAnswers := as, rxs := rest, abuf := [], phaseRxf := .hdr
        trace := s.trace ++ [.rxChecksumMismatch] }

/-- 42_receive_framer.md section 2 (R167): a completed frame with a good checksum is routed by its byte 1 alone: 0xFE onto
ASYNCBUF, 0xFF onto SYNCBUF, anything else dropped. A push onto a buffer at its finite depth discards the oldest entry
(R25, R26, R168, decision D11). -/
def Obligations.MarkerRoutesCompletedFrame : Prop :=
  ∀ (s : State) (j : Nat) (as : List ReadAnswer) (c : Byte) (rest : Bytes),
    s.run = true → s.rxPhaseOk = true → s.phaseRxf = .chk → s.rxAnswers = .upTo (j + 1) :: as → s.rxs = c :: rest →
    c = cksum (s.abuf.drop 2) →
    (byteAt s.abuf 1 = 0xFF →
      exec .rxStep s =
        .next { s with
          rxAnswers := as, rxs := rest, abuf := [], phaseRxf := .hdr
          syncbuf :=
            (if s.cfg.syncDepth = some s.syncbuf.length then s.syncbuf.drop 1 else s.syncbuf) ++ [s.abuf ++ [c]]
          trace :=
            s.trace ++ (if s.cfg.syncDepth = some s.syncbuf.length then [.syncbufOverflow] else []) }) ∧
    (byteAt s.abuf 1 = 0xFE →
      exec .rxStep s =
        .next { s with
          rxAnswers := as, rxs := rest, abuf := [], phaseRxf := .hdr
          asyncbuf :=
            (if s.cfg.asyncDepth = some s.asyncbuf.length then s.asyncbuf.drop 1 else s.asyncbuf) ++
              [s.abuf ++ [c]]
          trace :=
            s.trace ++ (if s.cfg.asyncDepth = some s.asyncbuf.length then [.asyncbufOverflow] else []) }) ∧
    (byteAt s.abuf 1 ≠ 0xFF → byteAt s.abuf 1 ≠ 0xFE →
      exec .rxStep s =
        .next { s with
          rxAnswers := as, rxs := rest, abuf := [], phaseRxf := .hdr
          trace := s.trace ++ [.rxUnknownMarker (byteAt s.abuf 1)] })

/-- FRAME_RX_SYNC (R165, R167, R168; the model's reading of the row as an operation is log 11): pushed when valid,
dropped when not, held while RUN = 0. -/
def Obligations.FrameRxSyncReachesSyncbuf : Prop :=
  ∀ (f : Frame) (s : State),
    (s.run = true → checksumMatches f = true →
      exec (.frameRxSync f) s =
        .next { s with
          syncbuf := (if s.cfg.syncDepth = some s.syncbuf.length then s.syncbuf.drop 1 else s.syncbuf) ++ [f]
          trace :=
            s.trace ++ (if s.cfg.syncDepth = some s.syncbuf.length then [.syncbufOverflow] else []) }) ∧
    (s.run = true → checksumMatches f = false →
      exec (.frameRxSync f) s = .next { s with trace := s.trace ++ [.rxChecksumMismatch] }) ∧
    (s.run = false → exec (.frameRxSync f) s = .next s)

/-- FRAME_RX_ASYNC (R165, R167, R168; log 11): pushed when valid, dropped when not, held while RUN = 0. -/
def Obligations.FrameRxAsyncReachesAsyncbuf : Prop :=
  ∀ (f : Frame) (s : State),
    (s.run = true → checksumMatches f = true →
      exec (.frameRxAsync f) s =
        .next { s with
          asyncbuf := (if s.cfg.asyncDepth = some s.asyncbuf.length then s.asyncbuf.drop 1 else s.asyncbuf) ++ [f]
          trace :=
            s.trace ++ (if s.cfg.asyncDepth = some s.asyncbuf.length then [.asyncbufOverflow] else []) }) ∧
    (s.run = true → checksumMatches f = false →
      exec (.frameRxAsync f) s = .next { s with trace := s.trace ++ [.rxChecksumMismatch] }) ∧
    (s.run = false → exec (.frameRxAsync f) s = .next s)

/-- FRAME_RX_OTHER (R165, R285; log 11): dropped with its marker recorded when valid, dropped as a mismatch when not;
no buffer changes and nothing is emitted. -/
def Obligations.FrameRxOtherIsDropped : Prop :=
  ∀ (f : Frame) (s : State),
    (s.run = true → checksumMatches f = true →
      exec (.frameRxOther f) s = .next { s with trace := s.trace ++ [.rxUnknownMarker (byteAt f 1)] }) ∧
    (s.run = true → checksumMatches f = false →
      exec (.frameRxOther f) s = .next { s with trace := s.trace ++ [.rxChecksumMismatch] }) ∧
    (s.run = false → exec (.frameRxOther f) s = .next s)

/-- R164, which the spec derives: the framer always needs at least one byte and never more than the current frame
lacks; a read takes bytes from the front of RXS, no more than that; ABUF stays within one frame. -/
def Obligations.FramerNeverOverReads : Prop :=
  ∀ s t : State, s.rxPhaseOk = true → exec .rxStep s = .next t →
    1 ≤ need s.phaseRxf s.abuf ∧
    (s.abuf.length < 6 → s.abuf.length + need s.phaseRxf s.abuf = 6) ∧
    (6 ≤ s.abuf.length → s.abuf.length + need s.phaseRxf s.abuf ≤ (byteAt s.abuf 5).toNat + 7) ∧
    (∃ c, s.rxs = c ++ t.rxs ∧ c.length ≤ need s.phaseRxf s.abuf) ∧
    t.abuf.length ≤ 262

/-- R169 and R170, which the spec derives: from a frame start, with no read error and unbounded buffers, however the
transport splits the stream into reads, the frames the framer completes are the cut of the bytes it consumed, the
unfinished rest is in ABUF, and of the frames exactly those with a good checksum and the buffer's marker are appended,
in order. -/
def Obligations.FramerCutsTheStream : Prop :=
  ∀ (n : Nat) (s t : State) (ms : List Move),
    s.run = true → s.phaseRxf = .hdr → s.abuf = [] → ReadAnswer.err ∉ s.rxAnswers →
    s.cfg.syncDepth = none → s.cfg.asyncDepth = none →
    s.sched = List.replicate n (.agent .rx) ++ ms → runSteps n s = .next t →
    ∃ c, s.rxs = c ++ t.rxs ∧ t.abuf = (cut c).2 ∧
      t.syncbuf = s.syncbuf ++ (cut c).1.filter (fun f => checksumMatches f && byteAt f 1 == 0xFF) ∧
      t.asyncbuf = s.asyncbuf ++ (cut c).1.filter (fun f => checksumMatches f && byteAt f 1 == 0xFE)

/-! ### The synchronous collector -/

/-- 43_sync_collector.md section 1 (R200): SYNC_REQ gives its caller a waiter context with no poll done and queues the
frame, or, on a full queue, holds in `W_SEND`. RUN plays no part. -/
def Obligations.SyncReqQueuesAndWaits : Prop :=
  ∀ (w : Frame) (s : State),
    (s.txq.length < s.cfg.txqDepth →
      exec (.syncReq w) s =
        .next { s with
          txq := s.txq ++ [w]
          callers := s.callers.modify s.actor (fun c => { c with status := .waiting ⟨.poll, w, 0⟩ }) }) ∧
    (s.cfg.txqDepth ≤ s.txq.length →
      exec (.syncReq w) s =
        .next { s with
          callers := s.callers.modify s.actor (fun c => { c with status := .waiting ⟨.send, w, 0⟩ }) }) ∧
    (encode (.syncReq w)).head? = some 0x05

/-- 43_sync_collector.md section 2 (R203): a poll takes the lowest-index match (R202, decision D13), returns it and
destroys the waiter context; the order of the others is free (R204), so the buffer is some permutation of them, whose
draw is counted (log 7). The 500th poll without a match returns the empty result and raises SYNC_TIMEOUT; any other only
counts, one past the 500th, which no run reaches, among them (log 22). Without a waiter in `W_POLL` there is no poll. RUN
plays no part. The match is R201, its length threshold the parameter (decision D12). -/
def Obligations.SyncPollScansOnce : Prop :=
  (∀ (s : State) (prog : List HostOp) (w : Frame) (n : Nat),
    s.callers[s.actor]? = some ⟨prog, .waiting ⟨.poll, w, n⟩⟩ →
    (∀ (a b : List Frame) (e : Frame), s.syncbuf = a ++ e :: b →
      (∀ x ∈ a, ¬(byteAt x 4 = byteAt w 4 ∧ s.cfg.syncLenThreshold < x.length)) →
      byteAt e 4 = byteAt w 4 → s.cfg.syncLenThreshold < e.length →
      ∃ buf : List Frame, buf.Perm (a ++ b) ∧
        exec .syncPoll s =
          .next { s with
            syncbuf := buf, draws := s.draws + 1
            callers := s.callers.set s.actor ⟨prog, .idle⟩
            results := s.results ++ [⟨s.actor, 0x00 :: e⟩] }) ∧
    ((∀ x ∈ s.syncbuf, ¬(byteAt x 4 = byteAt w 4 ∧ s.cfg.syncLenThreshold < x.length)) →
      (n + 1 = 500 →
        exec .syncPoll s =
          .next { s with
            trace := s.trace ++ [.syncTimeout]
            callers := s.callers.set s.actor ⟨prog, .idle⟩
            results := s.results ++ [⟨s.actor, [0x07]⟩] }) ∧
      (n + 1 ≠ 500 →
        exec .syncPoll s =
          .next { s with callers := s.callers.set s.actor ⟨prog, .waiting ⟨.poll, w, n + 1⟩⟩ }))) ∧
  (∀ s : State, (∀ prog w n, s.callers[s.actor]? ≠ some ⟨prog, .waiting ⟨.poll, w, n⟩⟩) → exec .syncPoll s = .next s)

/-- R63: a poll step removes from SYNCBUF exactly the entry it returns to its caller, or nothing; so no entry is ever
returned twice. -/
def Obligations.PollRemovesWhatItReturns : Prop :=
  ∀ (s t : State) (k : Nat) (ms : List Move), s.sched = .agent (.poll k) :: ms → step s = .next t →
    (∃ e, s.syncbuf.Perm (e :: t.syncbuf) ∧ t.results = s.results ++ [⟨k, 0x00 :: e⟩]) ∨
    (t.syncbuf = s.syncbuf ∧ (t.results = s.results ∨ t.results = s.results ++ [⟨k, [0x07]⟩]))

/-- 43_sync_collector.md section 2 (R203, R205, R206): with n polls done and no match arriving, the waiter makes exactly
500 - n more polls, RUN set or not; then its caller gets the empty result, SYNC_TIMEOUT is recorded, and SYNCBUF and
EVLOG are as they were. -/
def Obligations.PollBudgetEndsInEmptyResult : Prop :=
  ∀ (s : State) (k n : Nat) (ms : List Move) (prog : List HostOp) (w : Frame),
    n < 500 → s.callers[k]? = some ⟨prog, .waiting ⟨.poll, w, n⟩⟩ →
    (∀ x ∈ s.syncbuf, ¬(byteAt x 4 = byteAt w 4 ∧ s.cfg.syncLenThreshold < x.length)) →
    s.sched = List.replicate (500 - n) (.agent (.poll k)) ++ ms →
    runSteps (500 - n) s =
      .next { s with
        sched := ms, actor := k
        callers := s.callers.set k ⟨prog, .idle⟩
        trace := s.trace ++ [.syncTimeout]
        results := s.results ++ [⟨k, [0x07]⟩] }

/-! ### The asynchronous dispatcher -/

/-- 44_async_dispatch.md section 1 (R230, its gating and merging by decision D15): TICK sets DRAIN while RUN = 1 and
does nothing to the engine while RUN = 0. -/
def Obligations.TickStartsDrain : Prop :=
  ∀ s : State,
    (s.run = true →
      exec .tick s = .next { s with drain := true, results := s.results ++ [⟨s.actor, []⟩] }) ∧
    (s.run = false → exec .tick s = .next { s with results := s.results ++ [⟨s.actor, []⟩] }) ∧
    encode .tick = [0x06]

/-- R232: ASYNC_STEP pops the newest frame and classifies it (by CLASSIFY's events and discards), ends the drain on an
empty buffer, and holds unless RUN = 1 and DRAIN = 1. -/
def Obligations.AsyncStepPopsNewestOrEndsDrain : Prop :=
  (∀ (s : State) (l : List Frame) (e : Frame), s.run = true → s.drain = true → s.asyncbuf = l ++ [e] →
    exec .asyncStep s =
      .next { s with
        asyncbuf := l
        evlog := s.evlog ++ (eventOf s.cfg.collTagIndex e).toList
        trace := s.trace ++ (discardOf s.cfg.collTagIndex e).toList }) ∧
  (∀ s : State, s.run = true → s.drain = true → s.asyncbuf = [] → exec .asyncStep s = .next { s with drain := false }) ∧
  (∀ s : State, s.run = false ∨ s.drain = false → exec .asyncStep s = .next s)

/-- R233: what the classification of the popped frame does: a 22-byte frame with the tag value 17 at the tag index
emits a collision, a 90-byte frame a sample, each carrying the raw frame; any other shape only records its length. -/
def Obligations.ClassifyByLengthAndTag : Prop :=
  ∀ (s : State) (l : List Frame) (e : Frame), s.run = true → s.drain = true → s.asyncbuf = l ++ [e] →
    (e.length = 22 → e[s.cfg.collTagIndex]? = some 17 →
      exec .asyncStep s = .next { s with asyncbuf := l, evlog := s.evlog ++ [⟨.collision, e⟩] }) ∧
    (e.length = 90 →
      exec .asyncStep s = .next { s with asyncbuf := l, evlog := s.evlog ++ [⟨.sensordata, e⟩] }) ∧
    (e.length ≠ 90 → ¬(e.length = 22 ∧ e[s.cfg.collTagIndex]? = some 17) →
      exec .asyncStep s = .next { s with asyncbuf := l, trace := s.trace ++ [.asyncUnrecognisedShape e.length] })

/-- ASYNC_COLLISION, ASYNC_SAMPLE and ASYNC_OTHER (R233, R236; the model's reading of the rows as operations is log
11): what each does in a drain, and that each holds outside one. -/
def Obligations.AsyncShapesEmitOrDiscard : Prop :=
  ∀ (e : Frame) (s : State),
    (s.run = true → s.drain = true →
      exec (.asyncCollision e) s = .next { s with evlog := s.evlog ++ [⟨.collision, e⟩] } ∧
      exec (.asyncSample e) s = .next { s with evlog := s.evlog ++ [⟨.sensordata, e⟩] } ∧
      exec (.asyncOther e) s = .next { s with trace := s.trace ++ [.asyncUnrecognisedShape e.length] }) ∧
    (s.run = false ∨ s.drain = false →
      exec (.asyncCollision e) s = .next s ∧ exec (.asyncSample e) s = .next s ∧ exec (.asyncOther e) s = .next s)

/-- R235, which the spec derives: with no frame pushed during it, a drain of any length emits the events newest first,
skips the discarded shapes, empties ASYNCBUF and clears DRAIN. -/
def Obligations.DrainIsLastInFirstOut : Prop :=
  ∀ (s : State) (ms : List Move), s.run = true → s.drain = true →
    s.sched = List.replicate (s.asyncbuf.length + 1) (.agent .async) ++ ms →
    runSteps (s.asyncbuf.length + 1) s =
      .next { s with
        sched := ms, asyncbuf := [], drain := false
        evlog := s.evlog ++ s.asyncbuf.reverse.filterMap (eventOf s.cfg.collTagIndex)
        trace := s.trace ++ s.asyncbuf.reverse.filterMap (discardOf s.cfg.collTagIndex) }

/-! ### Control and refusals -/

/-- R260: START sets RUN, clears no buffer and leaves SEQ; with RUN = 1 it has no effect on the engine. -/
def Obligations.StartSetsRunOnly : Prop :=
  (∀ s : State, exec .start s = .next { s with run := true, results := s.results ++ [⟨s.actor, []⟩] }) ∧
  (∀ s : State, s.run = true → exec .start s = .next { s with results := s.results ++ [⟨s.actor, []⟩] }) ∧
  encode .start = [0x07]

/-- 30_encoding.md section 2 (R81) and 60_exceptions.md section 1 (R287), the spec's decision D2: a reserved code is
refused with ILLEGAL_OP: the mark is set, the cause recorded, nothing else changes and no result is returned. That the
model goes on after it is log 9. -/
def Obligations.ReservedCodeIsRefused : Prop :=
  ∀ (op : Byte) (s : State),
    exec (.reserved op) s = .next { s with trace := s.trace ++ [.illegalOp (some op)], refusal := true }

/-- 30_encoding.md section 2 (R81, decision D2): a caller's operation with a reserved or internal code, or one that
ends before its length, is refused when issued, and its caller moves on. -/
def Obligations.IllegalHostOperationIsRefused : Prop :=
  ∀ (s : State) (k : Nat) (ms : List Move) (op : Byte) (bs : Bytes) (ops : List HostOp),
    s.sched = .host k :: ms → s.callers[k]? = some ⟨.bytes (op :: bs) :: ops, .idle⟩ →
    (op.toNat = 0 ∨ (8 ≤ op.toNat ∧ op.toNat ≤ 0x7F) ∨ 0x85 ≤ op.toNat ∨ (0x80 ≤ op.toNat ∧ op.toNat ≤ 0x84) ∨
      (op :: bs).length < opLength (op :: bs)) →
    step s =
      .next { s with
        sched := ms, actor := k, callers := s.callers.set k ⟨ops, .idle⟩
        trace := s.trace ++ [.illegalOp (some op)], refusal := true }

/-! ### Steps, decoding and the whole machine -/

/-- The step of an idle caller runs the operation its program holds next: it decodes its bytes, moves the caller past
them and executes the instruction. -/
def Obligations.StepRunsHostOperation : Prop :=
  ∀ (s : State) (k : Nat) (ms : List Move) (bs : Bytes) (ops : List HostOp) (i : Instr),
    s.sched = .host k :: ms → s.callers[k]? = some ⟨.bytes bs :: ops, .idle⟩ → decodeHost bs = .ok i →
    step s = exec i { s with sched := ms, actor := k, callers := s.callers.set k ⟨ops, .idle⟩ }

/-- 30_encoding.md section 2 (R84): a pseudo-operation of caller k is ENCODE and then SEND or SYNC_REQ of the frame
ENCODE returned. Whatever other moves `mid` come between its two (any but the caller's own), the caller's second move
runs the second operation on the frame stamped in its first. R84 speaks of other agents' steps between the two; that
`mid` may hold Reset too, which leaves the caller's program and so the second operation with its frame, is the model's
choice, log 18. Schedule and callers as data are log 4 and log 5. With a body of 256 bytes or more
ENCODE is refused (R103, decision D3) and there is no second operation (log 24). -/
def Obligations.PseudoOperationPassesTheFrame : Prop :=
  ∀ (s : State) (k : Nat) (mid ms : List Move) (p : Pseudo) (dev cmd : Byte) (body : Bytes) (ops : List HostOp),
    s.sched = .host k :: (mid ++ .host k :: ms) → .host k ∉ mid →
    s.callers[k]? = some ⟨.pseudo p dev cmd body :: ops, .idle⟩ →
    (body.length ≤ 255 →
      step s =
        .next { s with
          sched := mid ++ .host k :: ms, actor := k
          callers := s.callers.set k ⟨.bytes (encode (p.second (buildFrame dev cmd s.seq body))) :: ops, .idle⟩
          results := s.results ++ [⟨k, buildFrame dev cmd s.seq body⟩] } ∧
      ∃ u, runSteps (mid.length + 1) s = .next u ∧
        step u =
          exec (match p with
            | .encSend => .send (buildFrame dev cmd s.seq body)
            | .encSync => .syncReq (buildFrame dev cmd s.seq body))
            { u with sched := ms, actor := k, callers := u.callers.set k ⟨ops, .idle⟩ }) ∧
    (255 < body.length →
      step s =
        .next { s with
          sched := mid ++ .host k :: ms, actor := k, callers := s.callers.set k ⟨ops, .idle⟩
          trace := s.trace ++ [.encodeBodyTooLong body.length], refusal := true })

/-- The step of an agent runs the instruction that its label's code decodes to (R80). -/
def Obligations.StepRunsLabelledStep : Prop :=
  ∀ (s : State) (l : Label) (ms : List Move) (i : Instr),
    s.sched = .agent l :: ms → decodeLabel [l.code] = .ok i →
    step s = exec i { s with sched := ms, actor := l.actor s }

/-- The frame-class rows inside the agents' steps (log 11): the read that completes a frame runs the instruction the
frame decodes to on the receive side; a dispatch runs the one of the popped frame's shape; a write runs FRAME_TX of
the current frame. -/
def Obligations.StepRunsFrameClass : Prop :=
  (∀ (s : State) (j : Nat) (as : List ReadAnswer) (c : Byte) (rest : Bytes) (i : Instr),
    s.run = true → s.rxPhaseOk = true → s.phaseRxf = .chk → s.rxAnswers = .upTo (j + 1) :: as → s.rxs = c :: rest →
    decodeWireRx (s.abuf ++ [c]) = .ok i →
    exec .rxStep s = exec i { s with rxAnswers := as, rxs := rest, abuf := [], phaseRxf := .hdr }) ∧
  (∀ (s : State) (l : List Frame) (e : Frame), s.run = true → s.drain = true → s.asyncbuf = l ++ [e] →
    exec .asyncStep s = exec (shapeInstr s.cfg.collTagIndex e) { s with asyncbuf := l }) ∧
  (∀ (s : State) (f : Frame) (i : Instr), s.txcur = some f → decodeWireTx f = .ok i → exec .txStepWrite s = exec i s)

/-- Every well-formed instruction, of every layer and with every operand its encoding admits, is what the decoder
reads from its encoding. -/
def Obligations.DecodeOfEncodeIsIdentity : Prop :=
  ∀ (c : Config) (i : Instr), i.wellFormed c = true → decode c i.layer (encode i) = .ok i

/-- A few operations written out byte by byte from R78 and R80 decode to what they stand for; so do two words of the
opcode table, a label and the start bytes of R70, in the numbering of the table that log 12 reads. -/
def Obligations.WrittenOutWordsDecode : Prop :=
  decodeHost [0x01, 0x00, 0x02, 0xAA, 0xBB] = .ok (.cksum [0xAA, 0xBB]) ∧
  decodeHost [0x02, 0x02, 0x20, 0x01, 0xFF] = .ok (.encode 0x02 0x20 [0xFF]) ∧
  decodeHost [0x03, 0x01, 1, 2, 3, 4, 5, 6, 0x77, 0x99] = .ok (.decode [1, 2, 3, 4, 5, 6] [0x77] 0x99) ∧
  decodeHost [0x04, 0xFF, 0xFF, 2, 0x20, 0, 1, 0x55, 0x87] = .ok (.send [0xFF, 0xFF, 2, 0x20, 0, 1, 0x55, 0x87]) ∧
  decodeHost [0x80] = .error (.internalCode 0x80) ∧
  decodeLabel [0x82] = .ok .rxStep ∧
  decodeTableWord 8 0x84 = some .asyncStep ∧
  decodeTableWord 16 0xFFFF = some (.frameTx [0xFF, 0xFF, 0, 0, 0, 0, 0])

/-- 70_reset_and_hazards.md section 1, the spec's decision D17: the machine right after reset, for the elements of R20;
SEQ is the parameter's default 0x00, and no caller waits (none exists, log 3). -/
def Obligations.ResetLeavesEngineEmpty : Prop :=
  State.reset.seq = 0x00 ∧ State.reset.txq = [] ∧ State.reset.phaseTxw = .idle ∧ State.reset.txcur = none ∧
  State.reset.phaseRxf = .hdr ∧ State.reset.abuf = [] ∧ State.reset.syncbuf = [] ∧ State.reset.asyncbuf = [] ∧
  State.reset.drain = false ∧ State.reset.run = false ∧ State.reset.evlog = [] ∧
  (∀ c ∈ State.reset.callers, c.status = .idle)

/-- 70_reset_and_hazards.md section 1 (R320, R322), decision D17: Reset in any state gives every element of R20 its reset
value and abandons every waiting caller without a result; the transport is not reset, and what it had accepted of the
current frame, some prefix that R322 leaves open, stays on the wire (a free draw, log 23). That the trace, the mark and
the results stay is log 18. -/
def Obligations.ResetAbandonsEverything : Prop :=
  ∀ (s : State) (ms : List Move), s.sched = .reset :: ms →
    ∃ p : Bytes, p <+: s.txcur.getD [] ∧
      step s =
        .next { s with
          sched := ms, seq := s.cfg.seqReset, txq := [], phaseTxw := .idle, txcur := none, phaseRxf := .hdr, abuf := []
          syncbuf := [], asyncbuf := [], drain := false, run := false, evlog := []
          callers := s.callers.map (fun c => { c with status := .idle })
          txs := s.txs ++ p, draws := s.draws + 1 }

/-- The invariant holds at reset. -/
def Obligations.InvariantHoldsAtReset : Prop := State.reset.Inv

/-- Every step of every agent, of the transport and of Reset keeps the invariant: TXCUR agrees with its phase, ABUF
with its phase, the queues with their depths, every buffered frame is whole, valid and on the right side, and every
waiter has polls left. -/
def Obligations.EveryStepKeepsInvariant : Prop :=
  ∀ s t : State, s.Inv → step s = .next t → t.Inv

/-- 60_exceptions.md section 2 (R290) and 93_implementation_defined.md section 1: nothing halts the machine: every
instruction in every state, and so every step, answers a next state. -/
def Obligations.NothingHaltsTheMachine : Prop :=
  (∀ (i : Instr) (s : State), ∃ t, exec i s = .next t) ∧ (∀ s : State, ∃ t, step s = .next t)

/-- 20_memory.md section 4 (R62) and 60_exceptions.md section 5 (R308), the spec's decision D23: a step whose condition
does not hold (the flags, the phase, something to work on, the transport's answer) changes nothing. That the model lets
a schedule name such a step is log 4. -/
def Obligations.DisabledStepHolds : Prop :=
  ∀ (i : Instr) (s : State), enables i s = false → exec i s = .next s

/-- 10_state.md section 4 (R28): while RUN = 0 no worker's step and no part of one does anything; no step but Reset clears
RUN (R263); and a step that sets it is that of an idle caller whose next operation decodes to START (R260). -/
def Obligations.RunGatesTheWorkers : Prop :=
  (∀ (s : State) (i : Instr), s.run = false →
    i ∈ [.txStepTake, .txStepWrite, .rxStep, .asyncStep] ∨
      (∃ f, i ∈ [.frameTx f, .frameRxSync f, .frameRxAsync f, .frameRxOther f, .asyncCollision f, .asyncSample f,
        .asyncOther f]) →
    exec i s = .next s) ∧
  (∀ s t : State, step s = .next t → s.sched.head? ≠ some .reset → s.run = true → t.run = true) ∧
  (∀ s t : State, step s = .next t → s.run = false → t.run = true →
    ∃ k ms bs ops, s.sched = .host k :: ms ∧ s.callers[k]? = some ⟨.bytes bs :: ops, .idle⟩ ∧
      decodeHost bs = .ok .start ∧ t.results = s.results ++ [⟨k, []⟩])

/-- 10_state.md section 2 (R21, R64): in every step, SEQ changes only by a full write, which adds 1, or by Reset. -/
def Obligations.OnlyFullWritesAdvanceSeq : Prop :=
  ∀ s t : State, step s = .next t → s.sched.head? ≠ some .reset →
    t.seq = if nextIsFullWrite s then s.seq + 1 else s.seq

/-- 10_state.md section 5 (R32): the parameters are fixed: no step changes them. -/
def Obligations.StepsKeepParameters : Prop :=
  ∀ s t : State, step s = .next t → t.cfg = s.cfg

/-- 10_state.md section 4 (R30, R34): EVLOG only grows, Reset apart, by at most one record a step, and only a write of
the transmit worker (topic error) or a step of the dispatcher (the other topics) adds one. -/
def Obligations.EventsComeFromWritesAndDispatch : Prop :=
  ∀ s t : State, step s = .next t → s.sched.head? ≠ some .reset →
    t.evlog = s.evlog ∨
    (∃ p, s.sched.head? = some (.agent .txWrite) ∧ t.evlog = s.evlog ++ [⟨.error, p⟩]) ∨
    (∃ e, s.sched.head? = some (.agent .async) ∧ e ∈ s.asyncbuf ∧
      (t.evlog = s.evlog ++ [⟨.collision, e⟩] ∨ t.evlog = s.evlog ++ [⟨.sensordata, e⟩]))

/-- 60_exceptions.md sections 1 and 2 (R288, R289): the cause trace only grows, and one step raises at most one
cause. -/
def Obligations.StepRaisesAtMostOneCause : Prop :=
  ∀ s t : State, step s = .next t → t.trace = s.trace ∨ ∃ c, t.trace = s.trace ++ [c]

/-- 60_exceptions.md section 1 (R287, decisions D2 and D3): the refusal mark stays set, is set only by a move of a host
caller, and the step that sets it leaves every element of the engine's state and every result as it was. -/
def Obligations.RefusalMarkIsSticky : Prop :=
  ∀ s t : State, step s = .next t →
    (s.refusal = true → t.refusal = true) ∧
    (s.refusal = false → t.refusal = true →
      ∃ k ms, s.sched = .host k :: ms ∧
        { t with sched := s.sched, actor := s.actor, callers := s.callers, trace := s.trace, refusal := s.refusal } = s ∧
        t.callers.map Caller.status = s.callers.map Caller.status)

/-- 10_state.md section 4 (R29, R34) and 60_exceptions.md section 5 (R306): a step touches only its own caller: the
others keep their programs and waiter contexts; a worker's step and the transport touch none. -/
def Obligations.StepTouchesOnlyItsCaller : Prop :=
  ∀ s t : State, step s = .next t → s.sched.head? ≠ some .reset →
    t.callers.length = s.callers.length ∧
    ∀ j, s.sched.head? ≠ some (.host j) → s.sched.head? ≠ some (.agent (.poll j)) → t.callers[j]? = s.callers[j]?

/-- 60_exceptions.md section 1, the spec's decision D18: the cause codes. -/
def Obligations.CausesHaveTheirCodes : Prop :=
  ∀ (n : Nat) (m : Byte) (o : Option Byte),
    [Cause.txIoError, .txShortWrite n, .rxIoError, .rxChecksumMismatch, .rxUnknownMarker m, .asyncUnrecognisedShape n,
      .syncTimeout, .decodeLenMismatch, .encodeBodyTooLong n, .illegalOp o, .syncbufOverflow, .asyncbufOverflow].map
        Cause.code =
      [0x01, 0x02, 0x03, 0x04, 0x05, 0x06, 0x07, 0x08, 0x09, 0x0A, 0x0B, 0x0C]

/-- 30_encoding.md section 3 (R83) and 60_exceptions.md section 4 (R300, R301): what the transport does between steps
reaches only RXS and the coming answers. That the answers are queues is log 6. -/
def Obligations.TransportInputsReachOnlyTheirQueues : Prop :=
  ∀ (s : State) (ms : List Move) (b : Bytes) (ra : ReadAnswer) (wa : WriteAnswer),
    (s.sched = .transport (.bytes b) :: ms → step s = .next { s with sched := ms, rxs := s.rxs ++ b }) ∧
    (s.sched = .transport (.readAnswer ra) :: ms →
      step s = .next { s with sched := ms, rxAnswers := s.rxAnswers ++ [ra] }) ∧
    (s.sched = .transport (.writeAnswer wa) :: ms →
      step s = .next { s with sched := ms, txAnswers := s.txAnswers ++ [wa] })

/-- 70_reset_and_hazards.md section 3 (R339, which the spec derives): an ENCODEd frame echoed back decodes on the
receive side as a sync frame, whatever its operands, and is pushed onto an unbounded SYNCBUF. The push is that of the
frame's class executed alone, the reading of log 11; that RX_STEP runs it is `StepRunsFrameClass`. -/
def Obligations.EchoedFrameReachesSyncbuf : Prop :=
  ∀ (dev cmd seq : Byte) (body : Bytes) (s : State), body.length ≤ 255 → s.run = true → s.cfg.syncDepth = none →
    ∃ i, decodeWireRx (buildFrame dev cmd seq body) = .ok i ∧
      exec i s = .next { s with syncbuf := s.syncbuf ++ [buildFrame dev cmd seq body] }

/-- 43_sync_collector.md section 1 (R200) and 70_reset_and_hazards.md section 3 (R337): a caller whose SYNC_REQ holds
in `W_SEND` retries it as its next move (log 21): with room the frame is queued and its polls begin at 0, without room
nothing changes. A caller in `W_POLL`, or with nothing to issue, or that does not exist, waits. -/
def Obligations.WaitingCallerMoves : Prop :=
  ∀ (s : State) (k : Nat) (ms : List Move), s.sched = .host k :: ms →
    (∀ prog w, s.callers[k]? = some ⟨prog, .waiting ⟨.send, w, 0⟩⟩ →
      (s.cfg.txqDepth ≤ s.txq.length → step s = .next { s with sched := ms, actor := k }) ∧
      (s.txq.length < s.cfg.txqDepth →
        step s =
          .next { s with
            sched := ms, actor := k, txq := s.txq ++ [w]
            callers := s.callers.set k ⟨prog, .waiting ⟨.poll, w, 0⟩⟩ })) ∧
    (∀ prog w n, s.callers[k]? = some ⟨prog, .waiting ⟨.poll, w, n⟩⟩ →
      step s = .next { s with sched := ms, actor := k }) ∧
    (s.callers[k]? = some ⟨[], .idle⟩ → step s = .next { s with sched := ms, actor := k }) ∧
    (s.callers[k]? = none → step s = .next { s with sched := ms, actor := k })
end

