-- ==== Sys2Proof/Laws/Frame.lean ====
section
/-! SUPPORT. The small lemmas of the frame's fields, the checksum and the cut. -/

namespace Sys2Proof

theorem byteSum_eq_sum (s : Bytes) : byteSum s = (s.map BitVec.toNat).sum := by
  induction s with
  | nil => rfl
  | cons b s ih => simp [byteSum, ih]

theorem byteSum_append (s t : Bytes) : byteSum (s ++ t) = byteSum s + byteSum t := by
  simp [byteSum_eq_sum]

/-- CKSUM as a number (R100). -/
theorem cksum_toNat (s : Bytes) : (cksum s).toNat = 255 - byteSum s % 256 := by
  simp only [cksum, BitVec.toNat_ofNat]
  omega

/-- Two sequences have one checksum exactly when their sums agree mod 256. -/
theorem cksum_eq_iff (s t : Bytes) : cksum s = cksum t ↔ byteSum s % 256 = byteSum t % 256 := by
  rw [← BitVec.toNat_inj, cksum_toNat, cksum_toNat]
  omega

theorem byteAt_append_left {f g : Bytes} {i : Nat} (h : i < f.length) : byteAt (f ++ g) i = byteAt f i := by
  simp [byteAt, List.getD_eq_getElem?_getD, List.getElem?_append_left h]

theorem marker_append {f g : Bytes} (h : 2 ≤ f.length) : marker (f ++ g) = marker f :=
  byteAt_append_left (by omega)

theorem bodyLen_append {f g : Bytes} (h : 6 ≤ f.length) : bodyLen (f ++ g) = bodyLen f := by
  simp [bodyLen, byteAt_append_left (show 5 < f.length by omega)]

theorem bodyLen_le (f : Bytes) : bodyLen f ≤ 255 := by
  have := (byteAt f 5).isLt
  simp only [bodyLen]
  omega

theorem chkByte_append_singleton (f : Bytes) (c : Byte) : chkByte (f ++ [c]) = c := by
  simp [chkByte, byteAt, List.getD_eq_getElem?_getD]

theorem covered_append_singleton {f : Bytes} (c : Byte) (h : 2 ≤ f.length) : covered (f ++ [c]) = f.drop 2 := by
  simp [covered, List.drop_append_of_le_length h]

/-- A frame's checksum validates exactly when its last byte is CKSUM of what stands before it from index 2 on (R75). -/
theorem checksumMatches_append_singleton {f : Bytes} (c : Byte) (h : 2 ≤ f.length) :
    checksumMatches (f ++ [c]) = (c == cksum (f.drop 2)) := by
  simp [checksumMatches, chkByte_append_singleton, covered_append_singleton c h]

/-- The frame ENCODE builds, written out (R102). -/
theorem buildFrame_eq (dev cmd seq : Byte) (body : Bytes) :
    buildFrame dev cmd seq body =
      [0xFF, 0xFF, dev, cmd, seq, BitVec.ofNat 8 body.length] ++ body ++
        [cksum ([dev, cmd, seq, BitVec.ofNat 8 body.length] ++ body)] := by
  simp [buildFrame]

theorem buildFrame_length (dev cmd seq : Byte) (body : Bytes) :
    (buildFrame dev cmd seq body).length = body.length + 7 := by
  simp [buildFrame_eq]

theorem buildFrame_bodyLen (dev cmd seq : Byte) {body : Bytes} (h : body.length ≤ 255) :
    bodyLen (buildFrame dev cmd seq body) = body.length := by
  simp [buildFrame_eq, bodyLen, byteAt]
  omega

theorem rxClass_eq_sync {f : Bytes} : rxClass f = .sync ↔ byteAt f 1 = 0xFF := by
  unfold rxClass marker markSync markAsync
  split
  · simp_all
  · split <;> simp_all

theorem rxClass_eq_async {f : Bytes} : rxClass f = .async ↔ byteAt f 1 = 0xFE := by
  unfold rxClass marker markSync markAsync
  split
  · rename_i h; simp [h]
  · split <;> simp_all

theorem rxClass_eq_other {f : Bytes} : rxClass f = .other ↔ byteAt f 1 ≠ 0xFF ∧ byteAt f 1 ≠ 0xFE := by
  unfold rxClass marker markSync markAsync
  split
  · simp_all
  · split <;> simp_all

end Sys2Proof

namespace Sys2Proof.Machine

/-- Once the frames are all cut, a larger bound cuts no more (R169). -/
theorem cutFrames_enough : ∀ (k m : Nat) (s : Bytes), s.length ≤ k → s.length ≤ m → cutFrames k s = cutFrames m s := by
  intro k
  induction k with
  | zero =>
    intro m s hk _
    cases m with
    | zero => rfl
    | succ m =>
      have h : s.length < 6 := by omega
      simp [cutFrames, h]
  | succ k ih =>
    intro m s hk hm
    cases m with
    | zero =>
      have h : s.length < 6 := by omega
      simp [cutFrames, h]
    | succ m =>
      have hd : (s.drop (7 + bodyLen s)).length ≤ k := by simp; omega
      have hd' : (s.drop (7 + bodyLen s)).length ≤ m := by simp; omega
      simp [cutFrames, ih m _ hd hd']

/-- A stream that holds no complete frame is cut into none. -/
theorem cut_incomplete {s : Bytes} (h : s.length < 6 ∨ s.length < 7 + bodyLen s) : cut s = ([], s) := by
  unfold cut
  cases hs : s.length with
  | zero => rfl
  | succ k =>
    unfold cutFrames
    split
    · rfl
    · rw [if_pos (by omega)]

/-- A stream that begins with a complete frame is cut after it. -/
theorem cut_frame {f : Frame} (s : Bytes) (h : f.length = 7 + bodyLen f) :
    cut (f ++ s) = (f :: (cut s).1, (cut s).2) := by
  have hb : bodyLen (f ++ s) = bodyLen f := bodyLen_append (by omega)
  have h1 : ¬ (f ++ s).length < 6 := by simp; omega
  have h2 : ¬ (f ++ s).length < 7 + bodyLen f := by simp; omega
  unfold cut
  obtain ⟨k, hk⟩ : ∃ k, (f ++ s).length = k + 1 := ⟨f.length + s.length - 1, by simp; omega⟩
  rw [hk]
  simp only [cutFrames, hb, h1, h2, if_false]
  rw [← h]
  simp only [List.take_left, List.drop_left]
  rw [cutFrames_enough k s.length s (by simp at hk; omega) le_rfl]

/-- The cut of a stream cut before: its unfinished rest is cut on (R169). -/
theorem cut_append (a b : Bytes) : cut (a ++ b) = ((cut a).1 ++ (cut ((cut a).2 ++ b)).1, (cut ((cut a).2 ++ b)).2) := by
  induction h : a.length using Nat.strong_induction_on generalizing a with
  | _ n ih =>
    by_cases hs : a.length < 6 ∨ a.length < 7 + bodyLen a
    · simp [cut_incomplete hs]
    · have hl : (a.take (7 + bodyLen a)).length = 7 + bodyLen a := by simp; omega
      have hb : bodyLen (a.take (7 + bodyLen a)) = bodyLen a := by
        conv_rhs => rw [← List.take_append_drop (7 + bodyLen a) a]
        exact (bodyLen_append (by omega)).symm
      have ha : a = a.take (7 + bodyLen a) ++ a.drop (7 + bodyLen a) := (List.take_append_drop _ _).symm
      have hlen : (a.drop (7 + bodyLen a)).length < n := by simp; omega
      generalize a.take (7 + bodyLen a) = f at *
      generalize a.drop (7 + bodyLen a) = r at *
      subst ha
      have hf : f.length = 7 + bodyLen f := by omega
      rw [List.append_assoc, cut_frame _ hf, cut_frame _ hf, ih r.length (by omega) r rfl]
      simp

end Sys2Proof.Machine
end

