-- ==== Sys2Proof/Laws/State.lean ====
section
/-! SUPPORT. For each simple update of the state, one lemma per field: the value it gives the fields it writes, and
that it leaves every other field. All true by rfl. -/

namespace Sys2Proof.Machine

/-! ### raise -/

@[simp] theorem raise_cfg (c : Cause) (s : State) : (raise c s).cfg = s.cfg := rfl
@[simp] theorem raise_seq (c : Cause) (s : State) : (raise c s).seq = s.seq := rfl
@[simp] theorem raise_txq (c : Cause) (s : State) : (raise c s).txq = s.txq := rfl
@[simp] theorem raise_phaseTxw (c : Cause) (s : State) : (raise c s).phaseTxw = s.phaseTxw := rfl
@[simp] theorem raise_txcur (c : Cause) (s : State) : (raise c s).txcur = s.txcur := rfl
@[simp] theorem raise_phaseRxf (c : Cause) (s : State) : (raise c s).phaseRxf = s.phaseRxf := rfl
@[simp] theorem raise_abuf (c : Cause) (s : State) : (raise c s).abuf = s.abuf := rfl
@[simp] theorem raise_syncbuf (c : Cause) (s : State) : (raise c s).syncbuf = s.syncbuf := rfl
@[simp] theorem raise_asyncbuf (c : Cause) (s : State) : (raise c s).asyncbuf = s.asyncbuf := rfl
@[simp] theorem raise_drain (c : Cause) (s : State) : (raise c s).drain = s.drain := rfl
@[simp] theorem raise_run (c : Cause) (s : State) : (raise c s).run = s.run := rfl
@[simp] theorem raise_callers (c : Cause) (s : State) : (raise c s).callers = s.callers := rfl
@[simp] theorem raise_evlog (c : Cause) (s : State) : (raise c s).evlog = s.evlog := rfl
@[simp] theorem raise_txs (c : Cause) (s : State) : (raise c s).txs = s.txs := rfl
@[simp] theorem raise_rxs (c : Cause) (s : State) : (raise c s).rxs = s.rxs := rfl
@[simp] theorem raise_rxAnswers (c : Cause) (s : State) : (raise c s).rxAnswers = s.rxAnswers := rfl
@[simp] theorem raise_txAnswers (c : Cause) (s : State) : (raise c s).txAnswers = s.txAnswers := rfl
@[simp] theorem raise_trace (c : Cause) (s : State) : (raise c s).trace = s.trace ++ [c] := rfl
@[simp] theorem raise_refusal (c : Cause) (s : State) : (raise c s).refusal = s.refusal := rfl
@[simp] theorem raise_results (c : Cause) (s : State) : (raise c s).results = s.results := rfl
@[simp] theorem raise_draws (c : Cause) (s : State) : (raise c s).draws = s.draws := rfl
@[simp] theorem raise_actor (c : Cause) (s : State) : (raise c s).actor = s.actor := rfl
@[simp] theorem raise_sched (c : Cause) (s : State) : (raise c s).sched = s.sched := rfl

/-! ### emit -/

@[simp] theorem emit_cfg (t : Topic) (p : Bytes) (s : State) : (emit t p s).cfg = s.cfg := rfl
@[simp] theorem emit_seq (t : Topic) (p : Bytes) (s : State) : (emit t p s).seq = s.seq := rfl
@[simp] theorem emit_txq (t : Topic) (p : Bytes) (s : State) : (emit t p s).txq = s.txq := rfl
@[simp] theorem emit_phaseTxw (t : Topic) (p : Bytes) (s : State) : (emit t p s).phaseTxw = s.phaseTxw := rfl
@[simp] theorem emit_txcur (t : Topic) (p : Bytes) (s : State) : (emit t p s).txcur = s.txcur := rfl
@[simp] theorem emit_phaseRxf (t : Topic) (p : Bytes) (s : State) : (emit t p s).phaseRxf = s.phaseRxf := rfl
@[simp] theorem emit_abuf (t : Topic) (p : Bytes) (s : State) : (emit t p s).abuf = s.abuf := rfl
@[simp] theorem emit_syncbuf (t : Topic) (p : Bytes) (s : State) : (emit t p s).syncbuf = s.syncbuf := rfl
@[simp] theorem emit_asyncbuf (t : Topic) (p : Bytes) (s : State) : (emit t p s).asyncbuf = s.asyncbuf := rfl
@[simp] theorem emit_drain (t : Topic) (p : Bytes) (s : State) : (emit t p s).drain = s.drain := rfl
@[simp] theorem emit_run (t : Topic) (p : Bytes) (s : State) : (emit t p s).run = s.run := rfl
@[simp] theorem emit_callers (t : Topic) (p : Bytes) (s : State) : (emit t p s).callers = s.callers := rfl
@[simp] theorem emit_evlog (t : Topic) (p : Bytes) (s : State) : (emit t p s).evlog = s.evlog ++ [⟨t, p⟩] := rfl
@[simp] theorem emit_txs (t : Topic) (p : Bytes) (s : State) : (emit t p s).txs = s.txs := rfl
@[simp] theorem emit_rxs (t : Topic) (p : Bytes) (s : State) : (emit t p s).rxs = s.rxs := rfl
@[simp] theorem emit_rxAnswers (t : Topic) (p : Bytes) (s : State) : (emit t p s).rxAnswers = s.rxAnswers := rfl
@[simp] theorem emit_txAnswers (t : Topic) (p : Bytes) (s : State) : (emit t p s).txAnswers = s.txAnswers := rfl
@[simp] theorem emit_trace (t : Topic) (p : Bytes) (s : State) : (emit t p s).trace = s.trace := rfl
@[simp] theorem emit_refusal (t : Topic) (p : Bytes) (s : State) : (emit t p s).refusal = s.refusal := rfl
@[simp] theorem emit_results (t : Topic) (p : Bytes) (s : State) : (emit t p s).results = s.results := rfl
@[simp] theorem emit_draws (t : Topic) (p : Bytes) (s : State) : (emit t p s).draws = s.draws := rfl
@[simp] theorem emit_actor (t : Topic) (p : Bytes) (s : State) : (emit t p s).actor = s.actor := rfl
@[simp] theorem emit_sched (t : Topic) (p : Bytes) (s : State) : (emit t p s).sched = s.sched := rfl

/-! ### refuse -/

@[simp] theorem refuse_cfg (c : Cause) (s : State) : (refuse c s).cfg = s.cfg := rfl
@[simp] theorem refuse_seq (c : Cause) (s : State) : (refuse c s).seq = s.seq := rfl
@[simp] theorem refuse_txq (c : Cause) (s : State) : (refuse c s).txq = s.txq := rfl
@[simp] theorem refuse_phaseTxw (c : Cause) (s : State) : (refuse c s).phaseTxw = s.phaseTxw := rfl
@[simp] theorem refuse_txcur (c : Cause) (s : State) : (refuse c s).txcur = s.txcur := rfl
@[simp] theorem refuse_phaseRxf (c : Cause) (s : State) : (refuse c s).phaseRxf = s.phaseRxf := rfl
@[simp] theorem refuse_abuf (c : Cause) (s : State) : (refuse c s).abuf = s.abuf := rfl
@[simp] theorem refuse_syncbuf (c : Cause) (s : State) : (refuse c s).syncbuf = s.syncbuf := rfl
@[simp] theorem refuse_asyncbuf (c : Cause) (s : State) : (refuse c s).asyncbuf = s.asyncbuf := rfl
@[simp] theorem refuse_drain (c : Cause) (s : State) : (refuse c s).drain = s.drain := rfl
@[simp] theorem refuse_run (c : Cause) (s : State) : (refuse c s).run = s.run := rfl
@[simp] theorem refuse_callers (c : Cause) (s : State) : (refuse c s).callers = s.callers := rfl
@[simp] theorem refuse_evlog (c : Cause) (s : State) : (refuse c s).evlog = s.evlog := rfl
@[simp] theorem refuse_txs (c : Cause) (s : State) : (refuse c s).txs = s.txs := rfl
@[simp] theorem refuse_rxs (c : Cause) (s : State) : (refuse c s).rxs = s.rxs := rfl
@[simp] theorem refuse_rxAnswers (c : Cause) (s : State) : (refuse c s).rxAnswers = s.rxAnswers := rfl
@[simp] theorem refuse_txAnswers (c : Cause) (s : State) : (refuse c s).txAnswers = s.txAnswers := rfl
@[simp] theorem refuse_trace (c : Cause) (s : State) : (refuse c s).trace = s.trace ++ [c] := rfl
@[simp] theorem refuse_refusal (c : Cause) (s : State) : (refuse c s).refusal = true := rfl
@[simp] theorem refuse_results (c : Cause) (s : State) : (refuse c s).results = s.results := rfl
@[simp] theorem refuse_draws (c : Cause) (s : State) : (refuse c s).draws = s.draws := rfl
@[simp] theorem refuse_actor (c : Cause) (s : State) : (refuse c s).actor = s.actor := rfl
@[simp] theorem refuse_sched (c : Cause) (s : State) : (refuse c s).sched = s.sched := rfl

/-! ### answer -/

@[simp] theorem answer_cfg (v : Bytes) (s : State) : (answer v s).cfg = s.cfg := rfl
@[simp] theorem answer_seq (v : Bytes) (s : State) : (answer v s).seq = s.seq := rfl
@[simp] theorem answer_txq (v : Bytes) (s : State) : (answer v s).txq = s.txq := rfl
@[simp] theorem answer_phaseTxw (v : Bytes) (s : State) : (answer v s).phaseTxw = s.phaseTxw := rfl
@[simp] theorem answer_txcur (v : Bytes) (s : State) : (answer v s).txcur = s.txcur := rfl
@[simp] theorem answer_phaseRxf (v : Bytes) (s : State) : (answer v s).phaseRxf = s.phaseRxf := rfl
@[simp] theorem answer_abuf (v : Bytes) (s : State) : (answer v s).abuf = s.abuf := rfl
@[simp] theorem answer_syncbuf (v : Bytes) (s : State) : (answer v s).syncbuf = s.syncbuf := rfl
@[simp] theorem answer_asyncbuf (v : Bytes) (s : State) : (answer v s).asyncbuf = s.asyncbuf := rfl
@[simp] theorem answer_drain (v : Bytes) (s : State) : (answer v s).drain = s.drain := rfl
@[simp] theorem answer_run (v : Bytes) (s : State) : (answer v s).run = s.run := rfl
@[simp] theorem answer_callers (v : Bytes) (s : State) : (answer v s).callers = s.callers := rfl
@[simp] theorem answer_evlog (v : Bytes) (s : State) : (answer v s).evlog = s.evlog := rfl
@[simp] theorem answer_txs (v : Bytes) (s : State) : (answer v s).txs = s.txs := rfl
@[simp] theorem answer_rxs (v : Bytes) (s : State) : (answer v s).rxs = s.rxs := rfl
@[simp] theorem answer_rxAnswers (v : Bytes) (s : State) : (answer v s).rxAnswers = s.rxAnswers := rfl
@[simp] theorem answer_txAnswers (v : Bytes) (s : State) : (answer v s).txAnswers = s.txAnswers := rfl
@[simp] theorem answer_trace (v : Bytes) (s : State) : (answer v s).trace = s.trace := rfl
@[simp] theorem answer_refusal (v : Bytes) (s : State) : (answer v s).refusal = s.refusal := rfl
@[simp] theorem answer_results (v : Bytes) (s : State) : (answer v s).results = s.results ++ [⟨s.actor, v⟩] := rfl
@[simp] theorem answer_draws (v : Bytes) (s : State) : (answer v s).draws = s.draws := rfl
@[simp] theorem answer_actor (v : Bytes) (s : State) : (answer v s).actor = s.actor := rfl
@[simp] theorem answer_sched (v : Bytes) (s : State) : (answer v s).sched = s.sched := rfl

/-! ### setStatus -/

@[simp] theorem setStatus_cfg (st : CallerStatus) (s : State) : (setStatus st s).cfg = s.cfg := rfl
@[simp] theorem setStatus_seq (st : CallerStatus) (s : State) : (setStatus st s).seq = s.seq := rfl
@[simp] theorem setStatus_txq (st : CallerStatus) (s : State) : (setStatus st s).txq = s.txq := rfl
@[simp] theorem setStatus_phaseTxw (st : CallerStatus) (s : State) : (setStatus st s).phaseTxw = s.phaseTxw := rfl
@[simp] theorem setStatus_txcur (st : CallerStatus) (s : State) : (setStatus st s).txcur = s.txcur := rfl
@[simp] theorem setStatus_phaseRxf (st : CallerStatus) (s : State) : (setStatus st s).phaseRxf = s.phaseRxf := rfl
@[simp] theorem setStatus_abuf (st : CallerStatus) (s : State) : (setStatus st s).abuf = s.abuf := rfl
@[simp] theorem setStatus_syncbuf (st : CallerStatus) (s : State) : (setStatus st s).syncbuf = s.syncbuf := rfl
@[simp] theorem setStatus_asyncbuf (st : CallerStatus) (s : State) : (setStatus st s).asyncbuf = s.asyncbuf := rfl
@[simp] theorem setStatus_drain (st : CallerStatus) (s : State) : (setStatus st s).drain = s.drain := rfl
@[simp] theorem setStatus_run (st : CallerStatus) (s : State) : (setStatus st s).run = s.run := rfl
@[simp] theorem setStatus_callers (st : CallerStatus) (s : State) : (setStatus st s).callers = s.callers.modify s.actor (fun c => { c with status := st }) := rfl
@[simp] theorem setStatus_evlog (st : CallerStatus) (s : State) : (setStatus st s).evlog = s.evlog := rfl
@[simp] theorem setStatus_txs (st : CallerStatus) (s : State) : (setStatus st s).txs = s.txs := rfl
@[simp] theorem setStatus_rxs (st : CallerStatus) (s : State) : (setStatus st s).rxs = s.rxs := rfl
@[simp] theorem setStatus_rxAnswers (st : CallerStatus) (s : State) : (setStatus st s).rxAnswers = s.rxAnswers := rfl
@[simp] theorem setStatus_txAnswers (st : CallerStatus) (s : State) : (setStatus st s).txAnswers = s.txAnswers := rfl
@[simp] theorem setStatus_trace (st : CallerStatus) (s : State) : (setStatus st s).trace = s.trace := rfl
@[simp] theorem setStatus_refusal (st : CallerStatus) (s : State) : (setStatus st s).refusal = s.refusal := rfl
@[simp] theorem setStatus_results (st : CallerStatus) (s : State) : (setStatus st s).results = s.results := rfl
@[simp] theorem setStatus_draws (st : CallerStatus) (s : State) : (setStatus st s).draws = s.draws := rfl
@[simp] theorem setStatus_actor (st : CallerStatus) (s : State) : (setStatus st s).actor = s.actor := rfl
@[simp] theorem setStatus_sched (st : CallerStatus) (s : State) : (setStatus st s).sched = s.sched := rfl

/-! ### enqueue -/

@[simp] theorem enqueue_cfg (f : Frame) (s : State) : (enqueue f s).cfg = s.cfg := rfl
@[simp] theorem enqueue_seq (f : Frame) (s : State) : (enqueue f s).seq = s.seq := rfl
@[simp] theorem enqueue_txq (f : Frame) (s : State) : (enqueue f s).txq = s.txq ++ [f] := rfl
@[simp] theorem enqueue_phaseTxw (f : Frame) (s : State) : (enqueue f s).phaseTxw = s.phaseTxw := rfl
@[simp] theorem enqueue_txcur (f : Frame) (s : State) : (enqueue f s).txcur = s.txcur := rfl
@[simp] theorem enqueue_phaseRxf (f : Frame) (s : State) : (enqueue f s).phaseRxf = s.phaseRxf := rfl
@[simp] theorem enqueue_abuf (f : Frame) (s : State) : (enqueue f s).abuf = s.abuf := rfl
@[simp] theorem enqueue_syncbuf (f : Frame) (s : State) : (enqueue f s).syncbuf = s.syncbuf := rfl
@[simp] theorem enqueue_asyncbuf (f : Frame) (s : State) : (enqueue f s).asyncbuf = s.asyncbuf := rfl
@[simp] theorem enqueue_drain (f : Frame) (s : State) : (enqueue f s).drain = s.drain := rfl
@[simp] theorem enqueue_run (f : Frame) (s : State) : (enqueue f s).run = s.run := rfl
@[simp] theorem enqueue_callers (f : Frame) (s : State) : (enqueue f s).callers = s.callers := rfl
@[simp] theorem enqueue_evlog (f : Frame) (s : State) : (enqueue f s).evlog = s.evlog := rfl
@[simp] theorem enqueue_txs (f : Frame) (s : State) : (enqueue f s).txs = s.txs := rfl
@[simp] theorem enqueue_rxs (f : Frame) (s : State) : (enqueue f s).rxs = s.rxs := rfl
@[simp] theorem enqueue_rxAnswers (f : Frame) (s : State) : (enqueue f s).rxAnswers = s.rxAnswers := rfl
@[simp] theorem enqueue_txAnswers (f : Frame) (s : State) : (enqueue f s).txAnswers = s.txAnswers := rfl
@[simp] theorem enqueue_trace (f : Frame) (s : State) : (enqueue f s).trace = s.trace := rfl
@[simp] theorem enqueue_refusal (f : Frame) (s : State) : (enqueue f s).refusal = s.refusal := rfl
@[simp] theorem enqueue_results (f : Frame) (s : State) : (enqueue f s).results = s.results := rfl
@[simp] theorem enqueue_draws (f : Frame) (s : State) : (enqueue f s).draws = s.draws := rfl
@[simp] theorem enqueue_actor (f : Frame) (s : State) : (enqueue f s).actor = s.actor := rfl
@[simp] theorem enqueue_sched (f : Frame) (s : State) : (enqueue f s).sched = s.sched := rfl

/-! ### txDone -/

@[simp] theorem txDone_cfg (s : State) : (txDone s).cfg = s.cfg := rfl
@[simp] theorem txDone_seq (s : State) : (txDone s).seq = s.seq := rfl
@[simp] theorem txDone_txq (s : State) : (txDone s).txq = s.txq := rfl
@[simp] theorem txDone_phaseTxw (s : State) : (txDone s).phaseTxw = .idle := rfl
@[simp] theorem txDone_txcur (s : State) : (txDone s).txcur = none := rfl
@[simp] theorem txDone_phaseRxf (s : State) : (txDone s).phaseRxf = s.phaseRxf := rfl
@[simp] theorem txDone_abuf (s : State) : (txDone s).abuf = s.abuf := rfl
@[simp] theorem txDone_syncbuf (s : State) : (txDone s).syncbuf = s.syncbuf := rfl
@[simp] theorem txDone_asyncbuf (s : State) : (txDone s).asyncbuf = s.asyncbuf := rfl
@[simp] theorem txDone_drain (s : State) : (txDone s).drain = s.drain := rfl
@[simp] theorem txDone_run (s : State) : (txDone s).run = s.run := rfl
@[simp] theorem txDone_callers (s : State) : (txDone s).callers = s.callers := rfl
@[simp] theorem txDone_evlog (s : State) : (txDone s).evlog = s.evlog := rfl
@[simp] theorem txDone_txs (s : State) : (txDone s).txs = s.txs := rfl
@[simp] theorem txDone_rxs (s : State) : (txDone s).rxs = s.rxs := rfl
@[simp] theorem txDone_rxAnswers (s : State) : (txDone s).rxAnswers = s.rxAnswers := rfl
@[simp] theorem txDone_txAnswers (s : State) : (txDone s).txAnswers = s.txAnswers := rfl
@[simp] theorem txDone_trace (s : State) : (txDone s).trace = s.trace := rfl
@[simp] theorem txDone_refusal (s : State) : (txDone s).refusal = s.refusal := rfl
@[simp] theorem txDone_results (s : State) : (txDone s).results = s.results := rfl
@[simp] theorem txDone_draws (s : State) : (txDone s).draws = s.draws := rfl
@[simp] theorem txDone_actor (s : State) : (txDone s).actor = s.actor := rfl
@[simp] theorem txDone_sched (s : State) : (txDone s).sched = s.sched := rfl

/-! ### readError -/

@[simp] theorem readError_cfg (s : State) : (readError s).cfg = s.cfg := rfl
@[simp] theorem readError_seq (s : State) : (readError s).seq = s.seq := rfl
@[simp] theorem readError_txq (s : State) : (readError s).txq = s.txq := rfl
@[simp] theorem readError_phaseTxw (s : State) : (readError s).phaseTxw = s.phaseTxw := rfl
@[simp] theorem readError_txcur (s : State) : (readError s).txcur = s.txcur := rfl
@[simp] theorem readError_phaseRxf (s : State) : (readError s).phaseRxf = .hdr := rfl
@[simp] theorem readError_abuf (s : State) : (readError s).abuf = [] := rfl
@[simp] theorem readError_syncbuf (s : State) : (readError s).syncbuf = s.syncbuf := rfl
@[simp] theorem readError_asyncbuf (s : State) : (readError s).asyncbuf = s.asyncbuf := rfl
@[simp] theorem readError_drain (s : State) : (readError s).drain = s.drain := rfl
@[simp] theorem readError_run (s : State) : (readError s).run = s.run := rfl
@[simp] theorem readError_callers (s : State) : (readError s).callers = s.callers := rfl
@[simp] theorem readError_evlog (s : State) : (readError s).evlog = s.evlog := rfl
@[simp] theorem readError_txs (s : State) : (readError s).txs = s.txs := rfl
@[simp] theorem readError_rxs (s : State) : (readError s).rxs = s.rxs := rfl
@[simp] theorem readError_rxAnswers (s : State) : (readError s).rxAnswers = s.rxAnswers := rfl
@[simp] theorem readError_txAnswers (s : State) : (readError s).txAnswers = s.txAnswers := rfl
@[simp] theorem readError_trace (s : State) : (readError s).trace = s.trace ++ [.rxIoError] := rfl
@[simp] theorem readError_refusal (s : State) : (readError s).refusal = s.refusal := rfl
@[simp] theorem readError_results (s : State) : (readError s).results = s.results := rfl
@[simp] theorem readError_draws (s : State) : (readError s).draws = s.draws := rfl
@[simp] theorem readError_actor (s : State) : (readError s).actor = s.actor := rfl
@[simp] theorem readError_sched (s : State) : (readError s).sched = s.sched := rfl

/-! ### tickDrain -/

@[simp] theorem tickDrain_cfg (s : State) : (s.tickDrain).cfg = s.cfg := rfl
@[simp] theorem tickDrain_seq (s : State) : (s.tickDrain).seq = s.seq := rfl
@[simp] theorem tickDrain_txq (s : State) : (s.tickDrain).txq = s.txq := rfl
@[simp] theorem tickDrain_phaseTxw (s : State) : (s.tickDrain).phaseTxw = s.phaseTxw := rfl
@[simp] theorem tickDrain_txcur (s : State) : (s.tickDrain).txcur = s.txcur := rfl
@[simp] theorem tickDrain_phaseRxf (s : State) : (s.tickDrain).phaseRxf = s.phaseRxf := rfl
@[simp] theorem tickDrain_abuf (s : State) : (s.tickDrain).abuf = s.abuf := rfl
@[simp] theorem tickDrain_syncbuf (s : State) : (s.tickDrain).syncbuf = s.syncbuf := rfl
@[simp] theorem tickDrain_asyncbuf (s : State) : (s.tickDrain).asyncbuf = s.asyncbuf := rfl
@[simp] theorem tickDrain_drain (s : State) : (s.tickDrain).drain = (s.run || s.drain) := rfl
@[simp] theorem tickDrain_run (s : State) : (s.tickDrain).run = s.run := rfl
@[simp] theorem tickDrain_callers (s : State) : (s.tickDrain).callers = s.callers := rfl
@[simp] theorem tickDrain_evlog (s : State) : (s.tickDrain).evlog = s.evlog := rfl
@[simp] theorem tickDrain_txs (s : State) : (s.tickDrain).txs = s.txs := rfl
@[simp] theorem tickDrain_rxs (s : State) : (s.tickDrain).rxs = s.rxs := rfl
@[simp] theorem tickDrain_rxAnswers (s : State) : (s.tickDrain).rxAnswers = s.rxAnswers := rfl
@[simp] theorem tickDrain_txAnswers (s : State) : (s.tickDrain).txAnswers = s.txAnswers := rfl
@[simp] theorem tickDrain_trace (s : State) : (s.tickDrain).trace = s.trace := rfl
@[simp] theorem tickDrain_refusal (s : State) : (s.tickDrain).refusal = s.refusal := rfl
@[simp] theorem tickDrain_results (s : State) : (s.tickDrain).results = s.results := rfl
@[simp] theorem tickDrain_draws (s : State) : (s.tickDrain).draws = s.draws := rfl
@[simp] theorem tickDrain_actor (s : State) : (s.tickDrain).actor = s.actor := rfl
@[simp] theorem tickDrain_sched (s : State) : (s.tickDrain).sched = s.sched := rfl

/-! ### startRun -/

@[simp] theorem startRun_cfg (s : State) : (s.startRun).cfg = s.cfg := rfl
@[simp] theorem startRun_seq (s : State) : (s.startRun).seq = s.seq := rfl
@[simp] theorem startRun_txq (s : State) : (s.startRun).txq = s.txq := rfl
@[simp] theorem startRun_phaseTxw (s : State) : (s.startRun).phaseTxw = s.phaseTxw := rfl
@[simp] theorem startRun_txcur (s : State) : (s.startRun).txcur = s.txcur := rfl
@[simp] theorem startRun_phaseRxf (s : State) : (s.startRun).phaseRxf = s.phaseRxf := rfl
@[simp] theorem startRun_abuf (s : State) : (s.startRun).abuf = s.abuf := rfl
@[simp] theorem startRun_syncbuf (s : State) : (s.startRun).syncbuf = s.syncbuf := rfl
@[simp] theorem startRun_asyncbuf (s : State) : (s.startRun).asyncbuf = s.asyncbuf := rfl
@[simp] theorem startRun_drain (s : State) : (s.startRun).drain = s.drain := rfl
@[simp] theorem startRun_run (s : State) : (s.startRun).run = true := rfl
@[simp] theorem startRun_callers (s : State) : (s.startRun).callers = s.callers := rfl
@[simp] theorem startRun_evlog (s : State) : (s.startRun).evlog = s.evlog := rfl
@[simp] theorem startRun_txs (s : State) : (s.startRun).txs = s.txs := rfl
@[simp] theorem startRun_rxs (s : State) : (s.startRun).rxs = s.rxs := rfl
@[simp] theorem startRun_rxAnswers (s : State) : (s.startRun).rxAnswers = s.rxAnswers := rfl
@[simp] theorem startRun_txAnswers (s : State) : (s.startRun).txAnswers = s.txAnswers := rfl
@[simp] theorem startRun_trace (s : State) : (s.startRun).trace = s.trace := rfl
@[simp] theorem startRun_refusal (s : State) : (s.startRun).refusal = s.refusal := rfl
@[simp] theorem startRun_results (s : State) : (s.startRun).results = s.results := rfl
@[simp] theorem startRun_draws (s : State) : (s.startRun).draws = s.draws := rfl
@[simp] theorem startRun_actor (s : State) : (s.startRun).actor = s.actor := rfl
@[simp] theorem startRun_sched (s : State) : (s.startRun).sched = s.sched := rfl

/-! ### dropOperation -/

@[simp] theorem dropOperation_cfg (s : State) : (dropOperation s).cfg = s.cfg := rfl
@[simp] theorem dropOperation_seq (s : State) : (dropOperation s).seq = s.seq := rfl
@[simp] theorem dropOperation_txq (s : State) : (dropOperation s).txq = s.txq := rfl
@[simp] theorem dropOperation_phaseTxw (s : State) : (dropOperation s).phaseTxw = s.phaseTxw := rfl
@[simp] theorem dropOperation_txcur (s : State) : (dropOperation s).txcur = s.txcur := rfl
@[simp] theorem dropOperation_phaseRxf (s : State) : (dropOperation s).phaseRxf = s.phaseRxf := rfl
@[simp] theorem dropOperation_abuf (s : State) : (dropOperation s).abuf = s.abuf := rfl
@[simp] theorem dropOperation_syncbuf (s : State) : (dropOperation s).syncbuf = s.syncbuf := rfl
@[simp] theorem dropOperation_asyncbuf (s : State) : (dropOperation s).asyncbuf = s.asyncbuf := rfl
@[simp] theorem dropOperation_drain (s : State) : (dropOperation s).drain = s.drain := rfl
@[simp] theorem dropOperation_run (s : State) : (dropOperation s).run = s.run := rfl
@[simp] theorem dropOperation_callers (s : State) : (dropOperation s).callers = s.callers.modify s.actor (fun c => { c with prog := c.prog.tail }) := rfl
@[simp] theorem dropOperation_evlog (s : State) : (dropOperation s).evlog = s.evlog := rfl
@[simp] theorem dropOperation_txs (s : State) : (dropOperation s).txs = s.txs := rfl
@[simp] theorem dropOperation_rxs (s : State) : (dropOperation s).rxs = s.rxs := rfl
@[simp] theorem dropOperation_rxAnswers (s : State) : (dropOperation s).rxAnswers = s.rxAnswers := rfl
@[simp] theorem dropOperation_txAnswers (s : State) : (dropOperation s).txAnswers = s.txAnswers := rfl
@[simp] theorem dropOperation_trace (s : State) : (dropOperation s).trace = s.trace := rfl
@[simp] theorem dropOperation_refusal (s : State) : (dropOperation s).refusal = s.refusal := rfl
@[simp] theorem dropOperation_results (s : State) : (dropOperation s).results = s.results := rfl
@[simp] theorem dropOperation_draws (s : State) : (dropOperation s).draws = s.draws := rfl
@[simp] theorem dropOperation_actor (s : State) : (dropOperation s).actor = s.actor := rfl
@[simp] theorem dropOperation_sched (s : State) : (dropOperation s).sched = s.sched := rfl

/-! ### pushOperation -/

@[simp] theorem pushOperation_cfg (o : HostOp) (s : State) : (pushOperation o s).cfg = s.cfg := rfl
@[simp] theorem pushOperation_seq (o : HostOp) (s : State) : (pushOperation o s).seq = s.seq := rfl
@[simp] theorem pushOperation_txq (o : HostOp) (s : State) : (pushOperation o s).txq = s.txq := rfl
@[simp] theorem pushOperation_phaseTxw (o : HostOp) (s : State) : (pushOperation o s).phaseTxw = s.phaseTxw := rfl
@[simp] theorem pushOperation_txcur (o : HostOp) (s : State) : (pushOperation o s).txcur = s.txcur := rfl
@[simp] theorem pushOperation_phaseRxf (o : HostOp) (s : State) : (pushOperation o s).phaseRxf = s.phaseRxf := rfl
@[simp] theorem pushOperation_abuf (o : HostOp) (s : State) : (pushOperation o s).abuf = s.abuf := rfl
@[simp] theorem pushOperation_syncbuf (o : HostOp) (s : State) : (pushOperation o s).syncbuf = s.syncbuf := rfl
@[simp] theorem pushOperation_asyncbuf (o : HostOp) (s : State) : (pushOperation o s).asyncbuf = s.asyncbuf := rfl
@[simp] theorem pushOperation_drain (o : HostOp) (s : State) : (pushOperation o s).drain = s.drain := rfl
@[simp] theorem pushOperation_run (o : HostOp) (s : State) : (pushOperation o s).run = s.run := rfl
@[simp] theorem pushOperation_callers (o : HostOp) (s : State) : (pushOperation o s).callers = s.callers.modify s.actor (fun c => { c with prog := o :: c.prog }) := rfl
@[simp] theorem pushOperation_evlog (o : HostOp) (s : State) : (pushOperation o s).evlog = s.evlog := rfl
@[simp] theorem pushOperation_txs (o : HostOp) (s : State) : (pushOperation o s).txs = s.txs := rfl
@[simp] theorem pushOperation_rxs (o : HostOp) (s : State) : (pushOperation o s).rxs = s.rxs := rfl
@[simp] theorem pushOperation_rxAnswers (o : HostOp) (s : State) : (pushOperation o s).rxAnswers = s.rxAnswers := rfl
@[simp] theorem pushOperation_txAnswers (o : HostOp) (s : State) : (pushOperation o s).txAnswers = s.txAnswers := rfl
@[simp] theorem pushOperation_trace (o : HostOp) (s : State) : (pushOperation o s).trace = s.trace := rfl
@[simp] theorem pushOperation_refusal (o : HostOp) (s : State) : (pushOperation o s).refusal = s.refusal := rfl
@[simp] theorem pushOperation_results (o : HostOp) (s : State) : (pushOperation o s).results = s.results := rfl
@[simp] theorem pushOperation_draws (o : HostOp) (s : State) : (pushOperation o s).draws = s.draws := rfl
@[simp] theorem pushOperation_actor (o : HostOp) (s : State) : (pushOperation o s).actor = s.actor := rfl
@[simp] theorem pushOperation_sched (o : HostOp) (s : State) : (pushOperation o s).sched = s.sched := rfl

/-! ### resetEngine -/

@[simp] theorem resetEngine_cfg (s : State) : (resetEngine s).cfg = s.cfg := rfl
@[simp] theorem resetEngine_seq (s : State) : (resetEngine s).seq = s.cfg.seqReset := rfl
@[simp] theorem resetEngine_txq (s : State) : (resetEngine s).txq = [] := rfl
@[simp] theorem resetEngine_phaseTxw (s : State) : (resetEngine s).phaseTxw = .idle := rfl
@[simp] theorem resetEngine_txcur (s : State) : (resetEngine s).txcur = none := rfl
@[simp] theorem resetEngine_phaseRxf (s : State) : (resetEngine s).phaseRxf = .hdr := rfl
@[simp] theorem resetEngine_abuf (s : State) : (resetEngine s).abuf = [] := rfl
@[simp] theorem resetEngine_syncbuf (s : State) : (resetEngine s).syncbuf = [] := rfl
@[simp] theorem resetEngine_asyncbuf (s : State) : (resetEngine s).asyncbuf = [] := rfl
@[simp] theorem resetEngine_drain (s : State) : (resetEngine s).drain = false := rfl
@[simp] theorem resetEngine_run (s : State) : (resetEngine s).run = false := rfl
@[simp] theorem resetEngine_callers (s : State) : (resetEngine s).callers = s.callers.map abandon := rfl
@[simp] theorem resetEngine_evlog (s : State) : (resetEngine s).evlog = [] := rfl
@[simp] theorem resetEngine_txs (s : State) : (resetEngine s).txs = s.txs ++ acceptedAtReset s := rfl
@[simp] theorem resetEngine_rxs (s : State) : (resetEngine s).rxs = s.rxs := rfl
@[simp] theorem resetEngine_rxAnswers (s : State) : (resetEngine s).rxAnswers = s.rxAnswers := rfl
@[simp] theorem resetEngine_txAnswers (s : State) : (resetEngine s).txAnswers = s.txAnswers := rfl
@[simp] theorem resetEngine_trace (s : State) : (resetEngine s).trace = s.trace := rfl
@[simp] theorem resetEngine_refusal (s : State) : (resetEngine s).refusal = s.refusal := rfl
@[simp] theorem resetEngine_results (s : State) : (resetEngine s).results = s.results := rfl
@[simp] theorem resetEngine_draws (s : State) : (resetEngine s).draws = s.draws + 1 := rfl
@[simp] theorem resetEngine_actor (s : State) : (resetEngine s).actor = s.actor := rfl
@[simp] theorem resetEngine_sched (s : State) : (resetEngine s).sched = s.sched := rfl

/-! ### actAs -/

@[simp] theorem actAs_cfg (k : Nat) (s : State) : (actAs k s).cfg = s.cfg := rfl
@[simp] theorem actAs_seq (k : Nat) (s : State) : (actAs k s).seq = s.seq := rfl
@[simp] theorem actAs_txq (k : Nat) (s : State) : (actAs k s).txq = s.txq := rfl
@[simp] theorem actAs_phaseTxw (k : Nat) (s : State) : (actAs k s).phaseTxw = s.phaseTxw := rfl
@[simp] theorem actAs_txcur (k : Nat) (s : State) : (actAs k s).txcur = s.txcur := rfl
@[simp] theorem actAs_phaseRxf (k : Nat) (s : State) : (actAs k s).phaseRxf = s.phaseRxf := rfl
@[simp] theorem actAs_abuf (k : Nat) (s : State) : (actAs k s).abuf = s.abuf := rfl
@[simp] theorem actAs_syncbuf (k : Nat) (s : State) : (actAs k s).syncbuf = s.syncbuf := rfl
@[simp] theorem actAs_asyncbuf (k : Nat) (s : State) : (actAs k s).asyncbuf = s.asyncbuf := rfl
@[simp] theorem actAs_drain (k : Nat) (s : State) : (actAs k s).drain = s.drain := rfl
@[simp] theorem actAs_run (k : Nat) (s : State) : (actAs k s).run = s.run := rfl
@[simp] theorem actAs_callers (k : Nat) (s : State) : (actAs k s).callers = s.callers := rfl
@[simp] theorem actAs_evlog (k : Nat) (s : State) : (actAs k s).evlog = s.evlog := rfl
@[simp] theorem actAs_txs (k : Nat) (s : State) : (actAs k s).txs = s.txs := rfl
@[simp] theorem actAs_rxs (k : Nat) (s : State) : (actAs k s).rxs = s.rxs := rfl
@[simp] theorem actAs_rxAnswers (k : Nat) (s : State) : (actAs k s).rxAnswers = s.rxAnswers := rfl
@[simp] theorem actAs_txAnswers (k : Nat) (s : State) : (actAs k s).txAnswers = s.txAnswers := rfl
@[simp] theorem actAs_trace (k : Nat) (s : State) : (actAs k s).trace = s.trace := rfl
@[simp] theorem actAs_refusal (k : Nat) (s : State) : (actAs k s).refusal = s.refusal := rfl
@[simp] theorem actAs_results (k : Nat) (s : State) : (actAs k s).results = s.results := rfl
@[simp] theorem actAs_draws (k : Nat) (s : State) : (actAs k s).draws = s.draws := rfl
@[simp] theorem actAs_actor (k : Nat) (s : State) : (actAs k s).actor = k := rfl
@[simp] theorem actAs_sched (k : Nat) (s : State) : (actAs k s).sched = s.sched := rfl

/-! ### scheduled -/

@[simp] theorem scheduled_cfg (ms : List Move) (s : State) : (scheduled ms s).cfg = s.cfg := rfl
@[simp] theorem scheduled_seq (ms : List Move) (s : State) : (scheduled ms s).seq = s.seq := rfl
@[simp] theorem scheduled_txq (ms : List Move) (s : State) : (scheduled ms s).txq = s.txq := rfl
@[simp] theorem scheduled_phaseTxw (ms : List Move) (s : State) : (scheduled ms s).phaseTxw = s.phaseTxw := rfl
@[simp] theorem scheduled_txcur (ms : List Move) (s : State) : (scheduled ms s).txcur = s.txcur := rfl
@[simp] theorem scheduled_phaseRxf (ms : List Move) (s : State) : (scheduled ms s).phaseRxf = s.phaseRxf := rfl
@[simp] theorem scheduled_abuf (ms : List Move) (s : State) : (scheduled ms s).abuf = s.abuf := rfl
@[simp] theorem scheduled_syncbuf (ms : List Move) (s : State) : (scheduled ms s).syncbuf = s.syncbuf := rfl
@[simp] theorem scheduled_asyncbuf (ms : List Move) (s : State) : (scheduled ms s).asyncbuf = s.asyncbuf := rfl
@[simp] theorem scheduled_drain (ms : List Move) (s : State) : (scheduled ms s).drain = s.drain := rfl
@[simp] theorem scheduled_run (ms : List Move) (s : State) : (scheduled ms s).run = s.run := rfl
@[simp] theorem scheduled_callers (ms : List Move) (s : State) : (scheduled ms s).callers = s.callers := rfl
@[simp] theorem scheduled_evlog (ms : List Move) (s : State) : (scheduled ms s).evlog = s.evlog := rfl
@[simp] theorem scheduled_txs (ms : List Move) (s : State) : (scheduled ms s).txs = s.txs := rfl
@[simp] theorem scheduled_rxs (ms : List Move) (s : State) : (scheduled ms s).rxs = s.rxs := rfl
@[simp] theorem scheduled_rxAnswers (ms : List Move) (s : State) : (scheduled ms s).rxAnswers = s.rxAnswers := rfl
@[simp] theorem scheduled_txAnswers (ms : List Move) (s : State) : (scheduled ms s).txAnswers = s.txAnswers := rfl
@[simp] theorem scheduled_trace (ms : List Move) (s : State) : (scheduled ms s).trace = s.trace := rfl
@[simp] theorem scheduled_refusal (ms : List Move) (s : State) : (scheduled ms s).refusal = s.refusal := rfl
@[simp] theorem scheduled_results (ms : List Move) (s : State) : (scheduled ms s).results = s.results := rfl
@[simp] theorem scheduled_draws (ms : List Move) (s : State) : (scheduled ms s).draws = s.draws := rfl
@[simp] theorem scheduled_actor (ms : List Move) (s : State) : (scheduled ms s).actor = s.actor := rfl
@[simp] theorem scheduled_sched (ms : List Move) (s : State) : (scheduled ms s).sched = ms := rfl

end Sys2Proof.Machine
end

