-- ==== Sys2Proof/Laws/Ops.lean ====
section
/-! SUPPORT. For each shared operation, once, everything it can do. -/

namespace Sys2Proof.Machine

theorem hasRoom_iff (q : List Frame) (d : Nat) : hasRoom q d = true ↔ q.length < d := by
  induction q generalizing d with
  | nil => cases d <;> simp [hasRoom]
  | cons f q ih => cases d <;> simp [hasRoom, ih]

theorem txqHasRoom_iff (s : State) : s.txqHasRoom = true ↔ s.txq.length < s.cfg.txqDepth := hasRoom_iff _ _

theorem atDepth_iff (d : Option Nat) (b : List Frame) : atDepth d b = true ↔ d = some b.length := by
  simp [atDepth]

/-! ### The free permutation (R204) -/

theorem insertAt_perm (x : Frame) (k : Nat) (l : List Frame) : (insertAt x k l).Perm (x :: l) := by
  induction l generalizing k with
  | nil => simp [insertAt]
  | cons y ys ih =>
    cases k with
    | zero => simp [insertAt]
    | succ k => exact ((ih k).cons y).trans (List.Perm.swap x y ys)

theorem permute_perm (n : Nat) (l : List Frame) : (permute n l).Perm l := by
  induction l generalizing n with
  | nil => simp [permute]
  | cons x xs ih => exact (insertAt_perm _ _ _).trans ((ih _).cons x)

theorem insertAt_append (x : Frame) (a b : List Frame) : insertAt x a.length (a ++ b) = a ++ x :: b := by
  induction a with
  | nil => cases b <;> simp [insertAt]
  | cons y ys ih => simp [insertAt, ih]

/-- Every order of a list is reached by some code: the draw excludes none (U2). -/
theorem permute_reaches (l l' : List Frame) (h : l'.Perm l) : ∃ n, permute n l = l' := by
  induction l generalizing l' with
  | nil => exact ⟨0, by simp [List.perm_nil.mp h, permute]⟩
  | cons x xs ih =>
    obtain ⟨a, b, rfl⟩ := List.append_of_mem (h.symm.subset (List.mem_cons_self))
    have hp : (a ++ b).Perm xs := (List.perm_middle.symm.trans h).cons_inv
    obtain ⟨n, hn⟩ := ih (a ++ b) hp
    have hl : a.length < xs.length + 1 := by
      have := hp.length_eq
      simp at this
      omega
    refine ⟨n * (xs.length + 1) + a.length, ?_⟩
    have hmod : (n * (xs.length + 1) + a.length) % (xs.length + 1) = a.length := by
      rw [Nat.mul_comm, Nat.mul_add_mod]
      exact Nat.mod_eq_of_lt hl
    have hdiv : (n * (xs.length + 1) + a.length) / (xs.length + 1) = n := by
      rw [Nat.mul_comm, Nat.mul_add_div (by omega)]
      simp [Nat.div_eq_of_lt hl]
    simp only [permute, hmod, hdiv, hn, insertAt_append]

/-! ### The scan (R202) -/

theorem takeFirst_eq_some {p : Frame → Bool} {l rest : List Frame} {e : Frame} :
    takeFirst p l = some (e, rest) ↔
      ∃ a b, l = a ++ e :: b ∧ (∀ x ∈ a, p x = false) ∧ p e = true ∧ rest = a ++ b := by
  induction l generalizing rest with
  | nil => simp [takeFirst]
  | cons y ys ih =>
    unfold takeFirst
    by_cases hy : p y = true
    · simp only [hy, if_true]
      constructor
      · rintro h
        obtain ⟨rfl, rfl⟩ := Prod.mk.inj (Option.some.inj h)
        exact ⟨[], ys, rfl, by simp, hy, rfl⟩
      · rintro ⟨a, b, hl, ha, _, rfl⟩
        cases a with
        | nil => simp_all
        | cons z zs =>
          obtain ⟨rfl, -⟩ := List.cons.inj hl
          simp [ha y (by simp)] at hy
    · simp only [hy]
      constructor
      · intro h
        cases hr : takeFirst p ys with
        | none => simp [hr] at h
        | some r =>
          obtain ⟨x, r⟩ := r
          simp [hr] at h
          obtain ⟨rfl, rfl⟩ := h
          obtain ⟨a, b, rfl, ha, he, rfl⟩ := ih.mp hr
          exact ⟨y :: a, b, rfl, by simpa [hy] using ha, he, rfl⟩
      · rintro ⟨a, b, hl, ha, he, rfl⟩
        cases a with
        | nil =>
          obtain ⟨rfl, -⟩ := List.cons.inj hl
          exact absurd he hy
        | cons z zs =>
          obtain ⟨rfl, rfl⟩ := List.cons.inj hl
          have hr := ih.mpr ⟨zs, b, rfl, fun x hx => ha x (by simp [hx]), he, rfl⟩
          change takeFirst p (zs ++ e :: b) = _ at hr
          simp [hr]

theorem takeFirst_eq_none {p : Frame → Bool} {l : List Frame} :
    takeFirst p l = none ↔ ∀ x ∈ l, p x = false := by
  induction l with
  | nil => simp [takeFirst]
  | cons y ys ih =>
    unfold takeFirst
    by_cases hy : p y = true
    · simp [hy]
    · have hy' : p y = false := by simpa using hy
      cases hr : takeFirst p ys with
      | none => simpa [hy'] using ih.mp hr
      | some r =>
        have : ¬ ∀ x ∈ ys, p x = false := fun h => by simp [ih.mpr h] at hr
        simp [hy', this]

theorem matchesKey_iff (n : Nat) (k : Byte) (e : Frame) :
    matchesKey n k e = true ↔ byteAt e 4 = k ∧ n < e.length := by
  simp [matchesKey, seqByte]

/-! ### The pushes, COMMIT and CLASSIFY -/

/-- PushSync in one form for both depths (R25). -/
theorem pushSync_eq (f : Frame) (s : State) :
    pushSync f s =
      { s with
        syncbuf := (if s.cfg.syncDepth = some s.syncbuf.length then s.syncbuf.drop 1 else s.syncbuf) ++ [f]
        trace := s.trace ++ (if s.cfg.syncDepth = some s.syncbuf.length then [.syncbufOverflow] else []) } := by
  unfold pushSync
  by_cases h : s.cfg.syncDepth = some s.syncbuf.length
  · rw [if_pos ((atDepth_iff _ _).mpr h), if_pos h, if_pos h]; rfl
  · have : atDepth s.cfg.syncDepth s.syncbuf = false := by
      rw [Bool.eq_false_iff]; exact fun hd => h ((atDepth_iff _ _).mp hd)
    simp [this, h]

/-- PushAsync in one form for both depths (R26). -/
theorem pushAsync_eq (f : Frame) (s : State) :
    pushAsync f s =
      { s with
        asyncbuf := (if s.cfg.asyncDepth = some s.asyncbuf.length then s.asyncbuf.drop 1 else s.asyncbuf) ++ [f]
        trace := s.trace ++ (if s.cfg.asyncDepth = some s.asyncbuf.length then [.asyncbufOverflow] else []) } := by
  unfold pushAsync
  by_cases h : s.cfg.asyncDepth = some s.asyncbuf.length
  · rw [if_pos ((atDepth_iff _ _).mpr h), if_pos h, if_pos h]; rfl
  · have : atDepth s.cfg.asyncDepth s.asyncbuf = false := by
      rw [Bool.eq_false_iff]; exact fun hd => h ((atDepth_iff _ _).mp hd)
    simp [this, h]

/-- COMMIT does one of four things (R165 to R167). -/
theorem commit_cases (f : Frame) (s : State) :
    (checksumMatches f = false ∧ commit f s = raise .rxChecksumMismatch s) ∨
    (checksumMatches f = true ∧ rxClass f = .sync ∧ commit f s = pushSync f s) ∨
    (checksumMatches f = true ∧ rxClass f = .async ∧ commit f s = pushAsync f s) ∨
    (checksumMatches f = true ∧ rxClass f = .other ∧ commit f s = raise (.rxUnknownMarker (marker f)) s) := by
  unfold commit ifValid route
  cases checksumMatches f <;> cases rxClass f <;> simp

/-- COMMIT writes the two buffers and the trace only. -/
theorem commit_frame (f : Frame) (s : State) :
    ∃ sb ab tr, commit f s = { s with syncbuf := sb, asyncbuf := ab, trace := tr } := by
  obtain ⟨-, h⟩ | ⟨-, -, h⟩ | ⟨-, -, h⟩ | ⟨-, -, h⟩ := commit_cases f s <;> rw [h]
  · exact ⟨s.syncbuf, s.asyncbuf, _, rfl⟩
  · rw [pushSync_eq]; exact ⟨_, s.asyncbuf, _, rfl⟩
  · rw [pushAsync_eq]; exact ⟨s.syncbuf, _, _, rfl⟩
  · exact ⟨s.syncbuf, s.asyncbuf, _, rfl⟩

/-- CLASSIFY in one form: the event or the discard of the frame (R233). -/
theorem classify_eq (e : Frame) (s : State) :
    classify e s =
      { s with
        evlog := s.evlog ++ (eventOf s.cfg.collTagIndex e).toList
        trace := s.trace ++ (discardOf s.cfg.collTagIndex e).toList } := by
  unfold classify eventOf discardOf
  cases shapeOf s.cfg.collTagIndex e <;> simp [emit, raise]

/-! ### Transmit -/

/-- What a write does: full, failed or short (R134). -/
theorem writeFrame_cases (f : Frame) (a : WriteAnswer) (s : State) :
    (acceptedCount a f = some f.length ∧
      writeFrame f a s = { s with txs := s.txs ++ f, seq := s.seq + 1, txcur := none, phaseTxw := .idle }) ∨
    (a = .err ∧
      writeFrame f a s =
        { s with
          txs := s.txs ++ f.take (Config.freePrefixLen s.draws), draws := s.draws + 1
          evlog := s.evlog ++ [⟨.error, [0x01]⟩], trace := s.trace ++ [.txIoError]
          txcur := none, phaseTxw := .idle }) ∨
    (∃ n, n < f.length ∧ a = .upTo n ∧ acceptedCount a f = some n ∧
      writeFrame f a s =
        { s with
          txs := s.txs ++ f.take n
          evlog := s.evlog ++ [⟨.error, [0x02, BitVec.ofNat 8 (n / 256), BitVec.ofNat 8 n]⟩]
          trace := s.trace ++ [.txShortWrite n], txcur := none, phaseTxw := .idle }) := by
  cases a with
  | all => exact .inl ⟨rfl, by simp [writeFrame, acceptedCount, txDone]⟩
  | err => exact .inr (.inl ⟨rfl, rfl⟩)
  | upTo n =>
    by_cases h : f.length ≤ n
    · exact .inl ⟨by simp [acceptedCount, h], by simp [writeFrame, acceptedCount, h, txDone]⟩
    · have hn : min n f.length = n := by omega
      refine .inr (.inr ⟨n, by omega, rfl, by simp [acceptedCount, hn], ?_⟩)
      have hne : n ≠ f.length := by omega
      simp [writeFrame, acceptedCount, hn, hne, txDone, emit, raise, shortWritePayload, Cause.code]

/-! ### The framer -/

/-- What the framer does with its buffer after a read: keeps the phase, completes the header, completes the body, or
completes the frame (R160, R163). -/
theorem advanceFramer_cases (s : State) :
    (advanceFramer s = s ∧
      ((s.phaseRxf = .hdr ∧ s.abuf.length ≠ 6) ∨ (s.phaseRxf = .body ∧ s.abuf.length ≠ 6 + bodyLen s.abuf) ∨
        (s.phaseRxf = .chk ∧ s.abuf.length ≠ 7 + bodyLen s.abuf))) ∨
    (s.phaseRxf = .hdr ∧ s.abuf.length = 6 ∧
      advanceFramer s = { s with phaseRxf := if bodyLen s.abuf = 0 then .chk else .body }) ∨
    (s.phaseRxf = .body ∧ s.abuf.length = 6 + bodyLen s.abuf ∧ advanceFramer s = { s with phaseRxf := .chk }) ∨
    (s.phaseRxf = .chk ∧ s.abuf.length = 7 + bodyLen s.abuf ∧
      advanceFramer s = commit s.abuf { s with abuf := [], phaseRxf := .hdr }) := by
  unfold advanceFramer
  cases h : s.phaseRxf with
  | hdr => by_cases hl : s.abuf.length = 6 <;> simp [hl]
  | body => by_cases hl : s.abuf.length = 6 + bodyLen s.abuf <;> simp [hl]
  | chk => by_cases hl : s.abuf.length = 7 + bodyLen s.abuf <;> simp [hl]

/-- The framer writes its two registers, the two buffers and the trace only. -/
theorem advanceFramer_frame (s : State) :
    ∃ ph ab sb asb tr,
      advanceFramer s = { s with phaseRxf := ph, abuf := ab, syncbuf := sb, asyncbuf := asb, trace := tr } := by
  obtain ⟨h, -⟩ | ⟨-, -, h⟩ | ⟨-, -, h⟩ | ⟨-, -, h⟩ := advanceFramer_cases s <;> rw [h]
  · exact ⟨s.phaseRxf, s.abuf, s.syncbuf, s.asyncbuf, s.trace, rfl⟩
  · exact ⟨_, s.abuf, s.syncbuf, s.asyncbuf, s.trace, rfl⟩
  · exact ⟨_, s.abuf, s.syncbuf, s.asyncbuf, s.trace, rfl⟩
  · obtain ⟨sb, asb, tr, h⟩ := commit_frame s.abuf { s with abuf := [], phaseRxf := .hdr }
    exact ⟨_, _, sb, asb, tr, h⟩

/-- A read takes its bytes from RXS and writes nothing but the framer's registers, the two buffers and the trace. -/
theorem absorb_frame (r : Bytes) (s : State) :
    ∃ ph ab sb asb tr,
      absorb r s =
        { s with
          rxs := s.rxs.drop r.length, phaseRxf := ph, abuf := ab, syncbuf := sb, asyncbuf := asb, trace := tr } := by
  obtain ⟨ph, ab, sb, asb, tr, h⟩ := advanceFramer_frame { s with rxs := s.rxs.drop r.length, abuf := s.abuf ++ r }
  exact ⟨ph, ab, sb, asb, tr, h⟩

/-- A validated push onto SYNCBUF writes SYNCBUF and the trace only. -/
theorem ifValid_pushSync_frame (f : Frame) (s : State) :
    ∃ sb tr, ifValid f (pushSync f) s = { s with syncbuf := sb, trace := tr } := by
  unfold ifValid
  split
  · rw [pushSync_eq]; exact ⟨_, _, rfl⟩
  · exact ⟨s.syncbuf, _, rfl⟩

/-- A validated push onto ASYNCBUF writes ASYNCBUF and the trace only. -/
theorem ifValid_pushAsync_frame (f : Frame) (s : State) :
    ∃ asb tr, ifValid f (pushAsync f) s = { s with asyncbuf := asb, trace := tr } := by
  unfold ifValid
  split
  · rw [pushAsync_eq]; exact ⟨_, _, rfl⟩
  · exact ⟨s.asyncbuf, _, rfl⟩

/-- A validated drop writes the trace only. -/
theorem ifValid_raise_frame (f : Frame) (c : Cause) (s : State) :
    ∃ c', ifValid f (raise c) s = { s with trace := s.trace ++ [c'] } := by
  unfold ifValid
  split <;> exact ⟨_, rfl⟩

/-- A read never takes more than the framer needs (R57). -/
theorem bytesRead_length (j : Nat) (s : State) : (bytesRead j s).length ≤ need s.phaseRxf s.abuf := by
  simp [bytesRead]

/-- A read takes its bytes from the front of RXS (R57). -/
theorem bytesRead_append (j : Nat) (s : State) : bytesRead j s ++ s.rxs.drop (bytesRead j s).length = s.rxs := by
  unfold bytesRead
  rw [List.length_take]
  conv_rhs => rw [← List.take_append_drop (min j (need s.phaseRxf s.abuf)) s.rxs]
  congr 1
  by_cases h : min j (need s.phaseRxf s.abuf) ≤ s.rxs.length
  · rw [min_eq_left h]
  · rw [List.drop_of_length_le, List.drop_of_length_le] <;> omega

/-- In a consistent phase the framer needs at least one byte (R164). -/
theorem need_pos {s : State} (h : s.rxPhaseOk = true) : 1 ≤ need s.phaseRxf s.abuf := by
  unfold State.rxPhaseOk at h
  split at h <;> rename_i hp <;> rw [hp] <;> simp at h <;> simp only [need, hdrLen] <;> omega

/-! ### The callers -/

theorem modify_set {α : Type} (l : List α) (k : Nat) (g : α → α) (c : α) (h : l[k]? = some c) :
    l.modify k g = l.set k (g c) := by
  rw [List.modify_eq_set_getElem?, h]
  rfl

theorem pollingWaiter_eq_some {s : State} {w : Waiter} :
    pollingWaiter s = some w ↔ w.phase = .poll ∧ ∃ prog, s.callers[s.actor]? = some ⟨prog, .waiting w⟩ := by
  unfold pollingWaiter
  split
  · rename_i prog f n h
    constructor
    · intro hw
      obtain rfl := Option.some.inj hw
      exact ⟨rfl, prog, h⟩
    · rintro ⟨-, p, hp⟩
      rw [h] at hp
      simp at hp
      simp [hp.2]
  · rename_i hne
    constructor
    · intro h; simp at h
    · rintro ⟨hp, prog, h⟩
      obtain ⟨ph, f, n⟩ := w
      simp at hp
      subst hp
      exact absurd h (hne prog f n)

end Sys2Proof.Machine
end

