-- ==== Sys2Proof/Laws/PerInstr.lean ====
section
/-! SUPPORT. A statement about every instruction as syntax: the length rule of R78 finds the end of every well-formed
host operation, so operations can follow each other in a byte string. -/

namespace Sys2Proof

theorem byteOfNat_toNat {n : Nat} (h : n ≤ 255) : (byteOfNat n).toNat = n := by
  simp [byteOfNat]
  omega

theorem beCount_byteOfNat {n : Nat} (h : n ≤ 65535) : beCount (byteOfNat (n / 256)) (byteOfNat n) = n := by
  simp only [beCount, byteOfNat, BitVec.toNat_ofNat]
  omega

/-- The length of an operation whose operand is a whole frame (R78, R82). -/
theorem opLength_frame {op : Byte} {f : Frame} (hop : op = 4 ∨ op = 5) (h : lengthMatches f = true) :
    opLength (op :: f) = f.length + 1 := by
  have hf : f.length = (byteAt f 5).toNat + 7 := by simpa [lengthMatches, bodyLen] using h
  obtain rfl | rfl := hop <;> simp [opLength, byteAt] <;> simp [byteAt] at hf <;> omega

end Sys2Proof

namespace Sys2Proof.Laws.OpLength

/-- The length rule applied to a well-formed host operation's bytes gives their number (R78). -/
def Statement (i : Instr) : Prop :=
  ∀ c : Config, i.wellFormed c = true → i.layer = .host → opLength (Sys2Proof.encode i) = (Sys2Proof.encode i).length

theorem cksum (b : Bytes) : Statement (.cksum b) := by
  intro c h _
  simp only [Instr.wellFormed, decide_eq_true_eq] at h
  simp [Sys2Proof.encode, opLength, byteAt, beCount_byteOfNat h]
  omega

theorem encode (dev : Byte) (cmd : Byte) (body : Bytes) : Statement (.encode dev cmd body) := by
  intro c h _
  simp only [Instr.wellFormed, decide_eq_true_eq] at h
  simp [Sys2Proof.encode, opLength, byteAt, byteOfNat_toNat h]
  omega

theorem decode (h : Bytes) (body : Bytes) (chk : Byte) : Statement (.decode h body chk) := by
  intro c h _
  simp only [Instr.wellFormed, Bool.and_eq_true, beq_iff_eq, decide_eq_true_eq] at h
  simp [Sys2Proof.encode, opLength, byteAt, byteOfNat_toNat h.2, h.1]
  omega

theorem send (f : Frame) : Statement (.send f) := by
  intro c h _
  simpa [Sys2Proof.encode] using opLength_frame (.inl rfl) h

theorem syncReq (w : Frame) : Statement (.syncReq w) := by
  intro c h _
  simpa [Sys2Proof.encode] using opLength_frame (.inr rfl) h

theorem tick : Statement (.tick) := by
  exact fun _ _ _ => rfl

theorem start : Statement (.start) := by
  exact fun _ _ _ => rfl

theorem txStepTake : Statement (.txStepTake) := by
  intro c _ h
  simp [Instr.layer] at h

theorem txStepWrite : Statement (.txStepWrite) := by
  intro c _ h
  simp [Instr.layer] at h

theorem rxStep : Statement (.rxStep) := by
  intro c _ h
  simp [Instr.layer] at h

theorem syncPoll : Statement (.syncPoll) := by
  intro c _ h
  simp [Instr.layer] at h

theorem asyncStep : Statement (.asyncStep) := by
  intro c _ h
  simp [Instr.layer] at h

theorem reserved (op : Byte) : Statement (.reserved op) := by
  intro c h _
  exact (show ∀ op : Byte, isReserved op = true → opLength [op] = 1 by decide) op h

theorem frameTx (f : Frame) : Statement (.frameTx f) := by
  intro c _ h
  simp [Instr.layer] at h

theorem frameRxSync (f : Frame) : Statement (.frameRxSync f) := by
  intro c _ h
  simp [Instr.layer] at h

theorem frameRxAsync (f : Frame) : Statement (.frameRxAsync f) := by
  intro c _ h
  simp [Instr.layer] at h

theorem frameRxOther (f : Frame) : Statement (.frameRxOther f) := by
  intro c _ h
  simp [Instr.layer] at h

theorem asyncCollision (e : Frame) : Statement (.asyncCollision e) := by
  intro c _ h
  simp [Instr.layer] at h

theorem asyncSample (e : Frame) : Statement (.asyncSample e) := by
  intro c _ h
  simp [Instr.layer] at h

theorem asyncOther (e : Frame) : Statement (.asyncOther e) := by
  intro c _ h
  simp [Instr.layer] at h

end Sys2Proof.Laws.OpLength
end

