-- ==== Sys2Proof/Laws/Step.lean ====
section
/-! SUPPORT. Once, everything an instruction and everything a step can do: `exec_effect` and `step_cases` are the
inversion lemmas that proofs about the whole machine cite instead of unfolding `exec` and `step`. -/

namespace Sys2Proof.Machine

/-- What executing an instruction from one state into the next did, with the guards under which it does so. -/
inductive Effect : Instr → State → State → Prop
  /-- the instruction's step was not enabled -/
  | hold (i : Instr) (s : State) : enables i s = false → Effect i s s
  | cksum (b : Bytes) (s : State) : Effect (.cksum b) s (answer [cksum b] s)
  | encode (dev cmd : Byte) (body : Bytes) (s : State) : body.length ≤ 255 →
      Effect (.encode dev cmd body) s (answer (buildFrame dev cmd s.seq body) s)
  | encodeTooLong (dev cmd : Byte) (body : Bytes) (s : State) : 255 < body.length →
      Effect (.encode dev cmd body) s (refuse (.encodeBodyTooLong body.length) s)
  | decodeLength (h body : Bytes) (chk : Byte) (s : State) : body.length ≠ bodyLen h →
      Effect (.decode h body chk) s (answer [0x08] (raise .decodeLenMismatch s))
  | decodeChecksum (h body : Bytes) (chk : Byte) (s : State) :
      body.length = bodyLen h → checksumMatches (h ++ body ++ [chk]) = false →
      Effect (.decode h body chk) s (answer [0x04] (raise .rxChecksumMismatch s))
  | decodeValid (h body : Bytes) (chk : Byte) (s : State) :
      body.length = bodyLen h → checksumMatches (h ++ body ++ [chk]) = true →
      Effect (.decode h body chk) s (answer ([0x00] ++ (h ++ body ++ [chk])) s)
  | send (f : Frame) (s : State) : s.txq.length < s.cfg.txqDepth →
      Effect (.send f) s (answer [] (setStatus .idle (enqueue f s)))
  | sendHolds (f : Frame) (s : State) : s.cfg.txqDepth ≤ s.txq.length →
      Effect (.send f) s (setStatus (.holding f) s)
  | syncReq (w : Frame) (s : State) : s.txq.length < s.cfg.txqDepth →
      Effect (.syncReq w) s (setStatus (.waiting ⟨.poll, w, 0⟩) (enqueue w s))
  | syncReqHolds (w : Frame) (s : State) : s.cfg.txqDepth ≤ s.txq.length →
      Effect (.syncReq w) s (setStatus (.waiting ⟨.send, w, 0⟩) s)
  | tick (s : State) : Effect .tick s (answer [] s.tickDrain)
  | start (s : State) : Effect .start s (answer [] s.startRun)
  | take (f : Frame) (q : List Frame) (s : State) : s.run = true → s.phaseTxw = .idle → s.txq = f :: q →
      Effect .txStepTake s { s with txq := q, txcur := some f, phaseTxw := .busy }
  | write (f : Frame) (a : WriteAnswer) (as : List WriteAnswer) (s : State) :
      s.run = true → s.phaseTxw = .busy → s.txcur = some f → s.txAnswers = a :: as →
      Effect .txStepWrite s (writeFrame f a { s with txAnswers := as })
  | frameTx (f : Frame) (a : WriteAnswer) (as : List WriteAnswer) (s : State) :
      s.run = true → s.phaseTxw = .busy → s.txcur = some f → s.txAnswers = a :: as →
      Effect (.frameTx f) s (writeFrame f a { s with txAnswers := as })
  | readError (as : List ReadAnswer) (s : State) : s.run = true → s.rxAnswers = .err :: as →
      Effect .rxStep s (readError { s with rxAnswers := as })
  | read (j : Nat) (as : List ReadAnswer) (s : State) : s.run = true → s.rxAnswers = .upTo j :: as →
      Effect .rxStep s (absorb (bytesRead j s) { s with rxAnswers := as })
  | pollHit (prog : List HostOp) (w : Frame) (n : Nat) (a b : List Frame) (e : Frame) (s : State) :
      s.callers[s.actor]? = some ⟨prog, .waiting ⟨.poll, w, n⟩⟩ → s.syncbuf = a ++ e :: b →
      (∀ x ∈ a, matchesKey s.cfg.syncLenThreshold (seqByte w) x = false) →
      matchesKey s.cfg.syncLenThreshold (seqByte w) e = true →
      Effect .syncPoll s (pollHit e (a ++ b) s)
  | pollTimeout (prog : List HostOp) (w : Frame) (n : Nat) (s : State) :
      s.callers[s.actor]? = some ⟨prog, .waiting ⟨.poll, w, n⟩⟩ →
      (∀ x ∈ s.syncbuf, matchesKey s.cfg.syncLenThreshold (seqByte w) x = false) → n + 1 = 500 →
      Effect .syncPoll s (pollTimeout s)
  | pollCounts (prog : List HostOp) (w : Frame) (n : Nat) (s : State) :
      s.callers[s.actor]? = some ⟨prog, .waiting ⟨.poll, w, n⟩⟩ →
      (∀ x ∈ s.syncbuf, matchesKey s.cfg.syncLenThreshold (seqByte w) x = false) → n + 1 ≠ 500 →
      Effect .syncPoll s (setStatus (.waiting ⟨.poll, w, n + 1⟩) s)
  | drainEnds (s : State) : s.run = true → s.drain = true → s.asyncbuf = [] →
      Effect .asyncStep s { s with drain := false }
  | dispatch (l : List Frame) (e : Frame) (s : State) : s.run = true → s.drain = true → s.asyncbuf = l ++ [e] →
      Effect .asyncStep s (classify e { s with asyncbuf := l })
  | reserved (op : Byte) (s : State) : Effect (.reserved op) s (refuse (.illegalOp (some op)) s)
  | frameRxSync (f : Frame) (s : State) : s.run = true → Effect (.frameRxSync f) s (ifValid f (pushSync f) s)
  | frameRxAsync (f : Frame) (s : State) : s.run = true → Effect (.frameRxAsync f) s (ifValid f (pushAsync f) s)
  | frameRxOther (f : Frame) (s : State) : s.run = true →
      Effect (.frameRxOther f) s (ifValid f (raise (.rxUnknownMarker (marker f))) s)
  | collision (e : Frame) (s : State) : s.run = true → s.drain = true →
      Effect (.asyncCollision e) s (emit .collision e s)
  | sample (e : Frame) (s : State) : s.run = true → s.drain = true →
      Effect (.asyncSample e) s (emit .sensordata e s)
  | other (e : Frame) (s : State) : s.run = true → s.drain = true →
      Effect (.asyncOther e) s (raise (.asyncUnrecognisedShape e.length) s)

theorem takeReady_iff (s : State) : s.takeReady = true ↔ s.run = true ∧ s.phaseTxw = .idle := by
  simp [State.takeReady]

theorem writeReady_iff (s : State) : s.writeReady = true ↔ s.run = true ∧ s.phaseTxw = .busy := by
  simp [State.writeReady]

theorem drainReady_iff (s : State) : s.drainReady = true ↔ s.run = true ∧ s.drain = true := by
  simp [State.drainReady]

theorem execSend_effect (f : Frame) (s : State) : ∃ t, execSend f s = .next t ∧ Effect (.send f) s t := by
  unfold execSend
  split
  · rename_i h; exact ⟨_, rfl, .send f s ((txqHasRoom_iff s).mp h)⟩
  · rename_i h; exact ⟨_, rfl, .sendHolds f s (by simpa [txqHasRoom_iff] using h)⟩

theorem execSyncReq_effect (w : Frame) (s : State) : ∃ t, execSyncReq w s = .next t ∧ Effect (.syncReq w) s t := by
  unfold execSyncReq
  split
  · rename_i h; exact ⟨_, rfl, .syncReq w s ((txqHasRoom_iff s).mp h)⟩
  · rename_i h; exact ⟨_, rfl, .syncReqHolds w s (by simpa [txqHasRoom_iff] using h)⟩

theorem execTxStepTake_effect (s : State) : ∃ t, execTxStepTake s = .next t ∧ Effect .txStepTake s t := by
  unfold execTxStepTake hold
  split
  · rename_i h
    obtain ⟨hr, hp⟩ := (takeReady_iff s).mp h
    split
    · exact ⟨_, rfl, .hold _ s (by simp_all [enables])⟩
    · rename_i f q hq; exact ⟨_, rfl, .take f q s hr hp hq⟩
  · exact ⟨_, rfl, .hold _ s (by simp_all [enables])⟩

theorem execTxStepWrite_effect (s : State) : ∃ t, execTxStepWrite s = .next t ∧ Effect .txStepWrite s t := by
  unfold execTxStepWrite transmit hold
  split
  · rename_i h
    obtain ⟨hr, hp⟩ := (writeReady_iff s).mp h
    split
    · exact ⟨_, rfl, .hold _ s (by simp_all [enables])⟩
    · rename_i f hf
      split
      · exact ⟨_, rfl, .hold _ s (by simp_all [enables])⟩
      · rename_i a as ha; exact ⟨_, rfl, .write f a as s hr hp hf ha⟩
  · exact ⟨_, rfl, .hold _ s (by simp_all [enables])⟩

theorem execFrameTx_effect (f : Frame) (s : State) : ∃ t, execFrameTx f s = .next t ∧ Effect (.frameTx f) s t := by
  unfold execFrameTx transmit hold
  split
  · rename_i h
    simp only [Bool.and_eq_true, beq_iff_eq] at h
    obtain ⟨hr, hp⟩ := (writeReady_iff s).mp h.1
    split
    · exact ⟨_, rfl, .hold _ s (by simp_all [enables])⟩
    · rename_i a as ha; exact ⟨_, rfl, .frameTx f a as s hr hp h.2 ha⟩
  · exact ⟨_, rfl, .hold _ s (by simp_all [enables])⟩

theorem execRxStep_effect (s : State) : ∃ t, execRxStep s = .next t ∧ Effect .rxStep s t := by
  unfold execRxStep hold
  split
  · rename_i h
    split
    · exact ⟨_, rfl, .hold _ s (by simp_all [enables])⟩
    · rename_i as ha; exact ⟨_, rfl, .readError as s h ha⟩
    · rename_i j as ha; exact ⟨_, rfl, .read j as s h ha⟩
  · exact ⟨_, rfl, .hold _ s (by simp_all [enables])⟩

theorem execSyncPoll_effect (s : State) : ∃ t, execSyncPoll s = .next t ∧ Effect .syncPoll s t := by
  unfold execSyncPoll hold
  split
  · exact ⟨_, rfl, .hold _ s (by simp_all [enables])⟩
  · rename_i w hw
    obtain ⟨hp, prog, hc⟩ := pollingWaiter_eq_some.mp hw
    obtain ⟨ph, f, n⟩ := w
    simp only at hp
    subst hp
    split
    · rename_i e rest ht
      obtain ⟨a, b, hl, ha, he, rfl⟩ := takeFirst_eq_some.mp ht
      exact ⟨_, rfl, .pollHit prog f n a b e s hc hl ha he⟩
    · rename_i ht
      split
      · rename_i hn; exact ⟨_, rfl, .pollTimeout prog f n s hc (takeFirst_eq_none.mp ht) hn⟩
      · rename_i hn; exact ⟨_, rfl, .pollCounts prog f n s hc (takeFirst_eq_none.mp ht) hn⟩

theorem execAsyncStep_effect (s : State) : ∃ t, execAsyncStep s = .next t ∧ Effect .asyncStep s t := by
  unfold execAsyncStep hold
  split
  · rename_i h
    obtain ⟨hr, hd⟩ := (drainReady_iff s).mp h
    split
    · rename_i ha; exact ⟨_, rfl, .drainEnds s hr hd (List.getLast?_eq_none_iff.mp ha)⟩
    · rename_i e he
      exact ⟨_, rfl, .dispatch _ e s hr hd (List.dropLast_append_getLast? e he).symm⟩
  · exact ⟨_, rfl, .hold _ s (by simp_all [enables])⟩

/-- Every instruction answers a next state, and these are all the things it does. -/
theorem exec_effect (i : Instr) (s : State) : ∃ t, exec i s = .next t ∧ Effect i s t := by
  cases i with
  | cksum b => exact ⟨_, rfl, .cksum b s⟩
  | encode dev cmd body =>
    by_cases h : body.length ≤ 255
    · exact ⟨_, by simp only [exec, execEncode, maxBody, h, if_true], .encode dev cmd body s h⟩
    · exact ⟨_, by simp only [exec, execEncode, maxBody, h, if_false], .encodeTooLong dev cmd body s (by omega)⟩
  | decode h body chk =>
    by_cases hl : body.length = bodyLen h
    · cases hc : checksumMatches (h ++ body ++ [chk]) with
      | true =>
        refine ⟨_, ?_, .decodeValid h body chk s hl hc⟩
        simp only [exec, execDecode, hc, if_neg (not_not.mpr hl), if_true]
      | false =>
        refine ⟨_, ?_, .decodeChecksum h body chk s hl hc⟩
        simp only [exec, execDecode, hc, if_neg (not_not.mpr hl), Cause.code, Bool.false_eq_true, if_false]
    · exact ⟨_, by simp only [exec, execDecode, if_pos hl, Cause.code], .decodeLength h body chk s hl⟩
  | send f => exact execSend_effect f s
  | syncReq w => exact execSyncReq_effect w s
  | tick => exact ⟨_, rfl, .tick s⟩
  | start => exact ⟨_, rfl, .start s⟩
  | txStepTake => exact execTxStepTake_effect s
  | txStepWrite => exact execTxStepWrite_effect s
  | rxStep => exact execRxStep_effect s
  | syncPoll => exact execSyncPoll_effect s
  | asyncStep => exact execAsyncStep_effect s
  | reserved op => exact ⟨_, rfl, .reserved op s⟩
  | frameTx f => exact execFrameTx_effect f s
  | frameRxSync f =>
    simp only [exec, execFrameRxSync]
    split
    · rename_i h; exact ⟨_, rfl, .frameRxSync f s h⟩
    · exact ⟨_, rfl, .hold _ s (by simp_all [enables])⟩
  | frameRxAsync f =>
    simp only [exec, execFrameRxAsync]
    split
    · rename_i h; exact ⟨_, rfl, .frameRxAsync f s h⟩
    · exact ⟨_, rfl, .hold _ s (by simp_all [enables])⟩
  | frameRxOther f =>
    simp only [exec, execFrameRxOther]
    split
    · rename_i h; exact ⟨_, rfl, .frameRxOther f s h⟩
    · exact ⟨_, rfl, .hold _ s (by simp_all [enables])⟩
  | asyncCollision e =>
    simp only [exec, execAsyncCollision]
    split
    · rename_i h; exact ⟨_, rfl, .collision e s ((drainReady_iff s).mp h).1 ((drainReady_iff s).mp h).2⟩
    · exact ⟨_, rfl, .hold _ s (by simp_all [enables])⟩
  | asyncSample e =>
    simp only [exec, execAsyncSample]
    split
    · rename_i h; exact ⟨_, rfl, .sample e s ((drainReady_iff s).mp h).1 ((drainReady_iff s).mp h).2⟩
    · exact ⟨_, rfl, .hold _ s (by simp_all [enables])⟩
  | asyncOther e =>
    simp only [exec, execAsyncOther]
    split
    · rename_i h; exact ⟨_, rfl, .other e s ((drainReady_iff s).mp h).1 ((drainReady_iff s).mp h).2⟩
    · exact ⟨_, rfl, .hold _ s (by simp_all [enables])⟩

theorem effect_of_exec {i : Instr} {s t : State} (h : exec i s = .next t) : Effect i s t := by
  obtain ⟨t', h', he⟩ := exec_effect i s
  rw [h] at h'
  cases h'
  exact he

/-- A host operation that decodes is an instruction of the host layer (R80, R81). -/
theorem decodeHost_layer {bs : Bytes} {i : Instr} (h : decodeHost bs = .ok i) : i.layer = .host := by
  unfold decodeHost at h
  split at h
  · simp at h
  · split at h
    · simp at h
    · split at h
      · simp at h
      · obtain rfl := Except.ok.inj h
        unfold hostOperands
        split <;> rfl

/-- What the move of caller `s.actor` can be. -/
inductive HostEffect (s : State) : State → Prop
  | waits : HostEffect s s
  | retriesSend (prog : List HostOp) (f : Frame) (t : State) :
      s.callers[s.actor]? = some ⟨prog, .holding f⟩ → Effect (.send f) s t → HostEffect s t
  | retriesSyncReq (prog : List HostOp) (w : Frame) (n : Nat) (t : State) :
      s.callers[s.actor]? = some ⟨prog, .waiting ⟨.send, w, n⟩⟩ → Effect (.syncReq w) s t → HostEffect s t
  | issues (bs : Bytes) (ops : List HostOp) (i : Instr) (t : State) :
      s.callers[s.actor]? = some ⟨.bytes bs :: ops, .idle⟩ → decodeHost bs = .ok i → Effect i (dropOperation s) t →
      HostEffect s t
  | refused (bs : Bytes) (ops : List HostOp) (e : DecodeError) :
      s.callers[s.actor]? = some ⟨.bytes bs :: ops, .idle⟩ → decodeHost bs = .error e →
      HostEffect s (refuse (.illegalOp bs.head?) (dropOperation s))
  | passes (p : Pseudo) (dev cmd : Byte) (body : Bytes) (ops : List HostOp) :
      s.callers[s.actor]? = some ⟨.pseudo p dev cmd body :: ops, .idle⟩ → body.length ≤ 255 →
      HostEffect s (pushOperation (.bytes (encode (p.second (buildFrame dev cmd s.seq body))))
        (answer (buildFrame dev cmd s.seq body) (dropOperation s)))
  | passesNothing (p : Pseudo) (dev cmd : Byte) (body : Bytes) (ops : List HostOp) :
      s.callers[s.actor]? = some ⟨.pseudo p dev cmd body :: ops, .idle⟩ → 255 < body.length →
      HostEffect s (refuse (.encodeBodyTooLong body.length) (dropOperation s))

/-- A pseudo-operation's first step passes on the frame ENCODE returned (R84). -/
theorem issuePseudo_short (p : Pseudo) (dev cmd : Byte) {body : Bytes} (s : State) (h : body.length ≤ 255) :
    issuePseudo p dev cmd body s =
      .next (pushOperation (.bytes (encode (p.second (buildFrame dev cmd s.seq body))))
        (answer (buildFrame dev cmd s.seq body) (dropOperation s))) := by
  simp [issuePseudo, exec, execEncode, h, passResult]

/-- A pseudo-operation whose ENCODE is refused passes on nothing (R103). -/
theorem issuePseudo_long (p : Pseudo) (dev cmd : Byte) {body : Bytes} (s : State) (h : 255 < body.length) :
    issuePseudo p dev cmd body s = .next (refuse (.encodeBodyTooLong body.length) (dropOperation s)) := by
  simp [issuePseudo, exec, execEncode, Nat.not_le.mpr h, passResult]

theorem hostMove_effect (s : State) : ∃ t, hostMove s = .next t ∧ HostEffect s t := by
  unfold hostMove hold
  split
  · exact ⟨_, rfl, .waits⟩
  · rename_i c hc
    obtain ⟨prog, st⟩ := c
    cases st with
    | holding f =>
      obtain ⟨t, h, he⟩ := exec_effect (.send f) s
      exact ⟨t, h, .retriesSend prog f t hc he⟩
    | waiting w =>
      obtain ⟨ph, f, n⟩ := w
      cases ph with
      | poll => exact ⟨_, rfl, .waits⟩
      | send =>
        obtain ⟨t, h, he⟩ := exec_effect (.syncReq f) s
        exact ⟨t, h, .retriesSyncReq prog f n t hc he⟩
    | idle =>
      cases prog with
      | nil => exact ⟨_, rfl, .waits⟩
      | cons o ops =>
        cases o with
        | bytes bs =>
          simp only [issue, opByte]
          cases hd : decodeHost bs with
          | error e => exact ⟨_, rfl, .refused bs ops e hc hd⟩
          | ok i =>
            obtain ⟨t, h, he⟩ := exec_effect i (dropOperation s)
            exact ⟨t, h, .issues bs ops i t hc hd he⟩
        | pseudo p dev cmd body =>
          by_cases hb : body.length ≤ 255
          · exact ⟨_, issuePseudo_short p dev cmd s hb, .passes p dev cmd body ops hc hb⟩
          · exact ⟨_, issuePseudo_long p dev cmd s (by omega), .passesNothing p dev cmd body ops hc (by omega)⟩

/-- What one move does. -/
inductive MoveEffect (s : State) : Move → State → Prop
  | host (k : Nat) (t : State) : HostEffect (actAs k s) t → MoveEffect s (.host k) t
  | agent (l : Label) (t : State) : Effect l.instr (actAs (l.actor s) s) t → MoveEffect s (.agent l) t
  | transport (x : TransportInput) : MoveEffect s (.transport x) (transportInput x s)
  | reset : MoveEffect s .reset (resetEngine s)

theorem runMove_effect (m : Move) (s : State) : ∃ t, runMove m s = .next t ∧ MoveEffect s m t := by
  cases m with
  | host k =>
    obtain ⟨t, h, he⟩ := hostMove_effect (actAs k s)
    exact ⟨t, h, .host k t he⟩
  | agent l =>
    obtain ⟨t, h, he⟩ := exec_effect l.instr (actAs (l.actor s) s)
    exact ⟨t, h, .agent l t he⟩
  | transport x => exact ⟨_, rfl, .transport x⟩
  | reset => exact ⟨_, rfl, .reset⟩

/-- A step takes the schedule's first move. -/
theorem step_eq {s : State} {m : Move} {ms : List Move} (h : s.sched = m :: ms) :
    step s = runMove m (scheduled ms s) := by
  simp only [step, h]

/-- A caller that holds in a SEND retries it (R131). -/
theorem hostMove_holding {s : State} {prog : List HostOp} {f : Frame}
    (h : s.callers[s.actor]? = some ⟨prog, .holding f⟩) : hostMove s = exec (.send f) s := by
  simp only [hostMove, h]

/-- A caller whose SYNC_REQ holds in `W_SEND` retries it (R200). -/
theorem hostMove_send {s : State} {prog : List HostOp} {w : Frame} {n : Nat}
    (h : s.callers[s.actor]? = some ⟨prog, .waiting ⟨.send, w, n⟩⟩) : hostMove s = exec (.syncReq w) s := by
  simp only [hostMove, h]

/-- A caller in `W_POLL` issues nothing (R200). -/
theorem hostMove_poll {s : State} {prog : List HostOp} {w : Frame} {n : Nat}
    (h : s.callers[s.actor]? = some ⟨prog, .waiting ⟨.poll, w, n⟩⟩) : hostMove s = .next s := by
  simp only [hostMove, h, hold]

/-- An idle caller issues the operation its program holds next. -/
theorem hostMove_idle {s : State} {bs : Bytes} {ops : List HostOp}
    (h : s.callers[s.actor]? = some ⟨.bytes bs :: ops, .idle⟩) : hostMove s = issue bs s := by
  simp only [hostMove, h]

/-- An idle caller issues the first operation of the pseudo-operation its program holds next (R84). -/
theorem hostMove_pseudo {s : State} {p : Pseudo} {dev cmd : Byte} {body : Bytes} {ops : List HostOp}
    (h : s.callers[s.actor]? = some ⟨.pseudo p dev cmd body :: ops, .idle⟩) :
    hostMove s = issuePseudo p dev cmd body s := by
  simp only [hostMove, h]

/-- A caller with nothing to issue waits. -/
theorem hostMove_done {s : State} (h : s.callers[s.actor]? = some ⟨[], .idle⟩) : hostMove s = .next s := by
  simp only [hostMove, h, hold]

/-- A caller that does not exist makes no move. -/
theorem hostMove_none {s : State} (h : s.callers[s.actor]? = none) : hostMove s = .next s := by
  simp only [hostMove, h, hold]

/-- Everything a step can do. -/
theorem step_cases {s t : State} (h : step s = .next t) :
    (s.sched = [] ∧ t = s) ∨ ∃ m ms, s.sched = m :: ms ∧ MoveEffect (scheduled ms s) m t := by
  unfold step at h
  split at h
  · rename_i hs; cases h; exact .inl ⟨hs, rfl⟩
  · rename_i m ms hs
    obtain ⟨t', h', he⟩ := runMove_effect m (scheduled ms s)
    rw [h] at h'
    cases h'
    exact .inr ⟨m, ms, hs, he⟩

/-- `runSteps` is the host's run of the machine. -/
theorem runSteps_eq_run (n : Nat) (s : State) : runSteps n s = Host.Core.run Sys2Proof.core n s := by
  induction n generalizing s with
  | zero => rfl
  | succ n ih =>
    simp only [runSteps, Host.Core.run]
    cases hs : step s with
    | next t =>
      have hs' : Host.Core.step Sys2Proof.core s = .next t := hs
      simp only [hs']
      exact ih t
    | fault r => cases r
    | refused r =>
      have hs' : Host.Core.step Sys2Proof.core s = .refused r := hs
      simp only [hs']
      rfl

end Sys2Proof.Machine
end

