-- ==== Sys2Proof/Tests/Slice0.lean ====
section
/-! SUPPORT. The model's own tests: ill-formed terms refused, words written out from R70, R78 and R80 decoded, single
steps with results worked out in spec/95_test_vectors.md (the vector is named at each), the first step after placing a
table word, and a witness for every statement that has hypotheses. -/

namespace Sys2Proof.Tests

open Sys2Proof Sys2Proof.Machine

/-! ### Small states -/

/-- The reset state of 95_test_vectors.md: `TXQ_DEPTH` = 4, the buffers unbounded. -/
def idle : State := { State.reset with cfg := ⟨4, none, none, 0x00, 7, 8⟩ }

/-- `idle` after START. -/
def running : State := { idle with run := true }

/-- The next state of an outcome. -/
def after : Out → Option State
  | .next t => some t
  | .fault _ => none
  | .refused _ => none

/-- One field of the next state. -/
def field {α : Type} (o : Out) (f : State → α) : Option α := (after o).map f

/-- `idle` with one caller that holds in `st` and has `prog` to issue, whose move is next. -/
def withCaller (prog : List HostOp) (st : CallerStatus) : State :=
  { idle with callers := [⟨prog, st⟩], sched := [.host 0] }

/-- F of W2: the frame of V-E3. -/
def frameF : Frame := [0xFF, 0xFF, 0x02, 0x20, 0x00, 0x04, 0xFF, 0x00, 0x00, 0x00, 0xDA]
/-- A of V-T1. -/
def frameA : Frame := [0xFF, 0xFF, 0x02, 0x30, 0x05, 0x04, 0x80, 0x00, 0x5A, 0x01, 0xE9]
/-- w of V-S1: the request with sequence 0. -/
def frameW : Frame := [0xFF, 0xFF, 0x02, 0x22, 0x00, 0x00, 0xDB]
/-- The shortest sync frame (W1). -/
def frameAck : Frame := [0xFF, 0xFF, 0x00, 0x00, 0x00, 0x00, 0xFF]
/-- The async frame of V-RX1. -/
def frameAsync : Frame := [0xFF, 0xFE, 0x07, 0x00, 0x00, 0x00, 0xF8]
/-- The frame with marker 0x42 of V-RX4. -/
def frameOther : Frame := [0xFF, 0x42, 0x01, 0x02, 0x03, 0x01, 0x04, 0xF4]
/-- The reply of W4. -/
def frameReply : Frame := [0xFF, 0xFF, 0x00, 0x00, 0x00, 0x03, 0x0A, 0x0B, 0x0C, 0xDB]
/-- C of W5. -/
def frameC : Frame := [0xFF, 0xFE, 0x07, 0x00, 0x00, 0x0F, 0x01, 0x02, 0x11] ++ List.replicate 12 0x00 ++ [0xD5]
/-- C′ of V-A5: byte 8 is not the tag. -/
def frameC' : Frame := [0xFF, 0xFE, 0x07, 0x00, 0x00, 0x0F, 0x01, 0x02, 0x10] ++ List.replicate 12 0x00 ++ [0xD6]
/-- S of W5. -/
def frameS : Frame := [0xFF, 0xFE, 0x03, 0x00, 0x00, 0x53] ++ List.replicate 83 0x00 ++ [0xA9]

/-- V-T1's end: the worker busy with A, the answer to its write given. -/
def busy (a : WriteAnswer) : State :=
  { running with seq := 0x05, phaseTxw := .busy, txcur := some frameA, txAnswers := [a] }

/-- The framer with bytes in ABUF and bytes to come, a read answered with all it asks for. -/
def framer (p : RxPhase) (abuf rxs : Bytes) : State :=
  { running with phaseRxf := p, abuf := abuf, rxs := rxs, rxAnswers := [.upTo 262] }

/-- A caller waiting for sequence 0 with `n` polls done. -/
def waiting (n : Nat) (buf : List Frame) : State :=
  { idle with callers := [⟨[], .waiting ⟨.poll, frameW, n⟩⟩], syncbuf := buf, sched := [.agent (.poll 0)] }

/-- A drain in progress. -/
def draining (buf : List Frame) : State :=
  { running with drain := true, asyncbuf := buf, sched := [.agent .async] }

/-! ### WellFormed refuses each ill-formed term -/

theorem test_wf_decode_header : (Instr.decode [1, 2, 3, 4, 5] [] 0).wellFormed idle.cfg = false := by decide
theorem test_wf_decode_body (b : Bytes) (h : b.length = 256) :
    (Instr.decode [1, 2, 3, 4, 5, 6] b 0).wellFormed idle.cfg = false := by
  simp [Instr.wellFormed, h]
theorem test_wf_encode_body (b : Bytes) (h : b.length = 256) : (Instr.encode 0 0 b).wellFormed idle.cfg = false := by
  simp [Instr.wellFormed, h]
theorem test_wf_cksum_length (b : Bytes) (h : b.length = 65536) : (Instr.cksum b).wellFormed idle.cfg = false := by
  simp [Instr.wellFormed, h]
theorem test_wf_send_length : (Instr.send [0xFF, 0xFF, 2, 0x20, 0, 4, 0xFF]).wellFormed idle.cfg = false := by decide
theorem test_wf_syncReq_length : (Instr.syncReq (frameW ++ [0])).wellFormed idle.cfg = false := by decide
theorem test_wf_reserved :
    [0x01, 0x07, 0x80, 0x84].all (fun op => !(Instr.reserved op).wellFormed idle.cfg) = true := by decide
theorem test_wf_frameTx_length : (Instr.frameTx (frameAck ++ [0])).wellFormed idle.cfg = false := by decide
theorem test_wf_frameTx_start0 : (Instr.frameTx (frameAck.set 0 0)).wellFormed idle.cfg = false := by decide
theorem test_wf_frameTx_start1 : (Instr.frameTx frameAsync).wellFormed idle.cfg = false := by decide
theorem test_wf_rxSync_length : (Instr.frameRxSync (frameAck ++ [0])).wellFormed idle.cfg = false := by decide
theorem test_wf_rxSync_marker : (Instr.frameRxSync frameAsync).wellFormed idle.cfg = false := by decide
theorem test_wf_rxAsync_length : (Instr.frameRxAsync (frameAsync ++ [0])).wellFormed idle.cfg = false := by decide
theorem test_wf_rxAsync_marker : (Instr.frameRxAsync frameAck).wellFormed idle.cfg = false := by decide
theorem test_wf_rxOther_length : (Instr.frameRxOther (frameOther ++ [0])).wellFormed idle.cfg = false := by decide
theorem test_wf_rxOther_marker : (Instr.frameRxOther frameAck).wellFormed idle.cfg = false := by decide
theorem test_wf_collision_tag : (Instr.asyncCollision frameC').wellFormed idle.cfg = false := by decide
theorem test_wf_sample_length : (Instr.asyncSample frameC).wellFormed idle.cfg = false := by decide
theorem test_wf_other_shape : (Instr.asyncOther frameS).wellFormed idle.cfg = false := by decide

/-! ### Decoding, the words written out from R78, R80 and R70 -/

/-- V-E1 and V-E2. -/
theorem test_decode_cksum :
    decodeHost [0x01, 0x00, 0x08, 0x02, 0x20, 0x00, 0x04, 0xFF, 0x00, 0x00, 0x00] =
        .ok (.cksum [0x02, 0x20, 0x00, 0x04, 0xFF, 0x00, 0x00, 0x00]) ∧
      decodeHost [0x01, 0x00, 0x00] = .ok (.cksum []) := by decide
/-- The count is big-endian (R78): 0x0100 is 256 bytes, not 1. -/
theorem test_decode_cksum_big_endian : opLength [0x01, 0x01, 0x00] = 259 := by decide
/-- V-E3 and V-E4. -/
theorem test_decode_encode :
    decodeHost [0x02, 0x02, 0x20, 0x04, 0xFF, 0x00, 0x00, 0x00] = .ok (.encode 0x02 0x20 [0xFF, 0x00, 0x00, 0x00]) ∧
      decodeHost [0x02, 0x02, 0x22, 0x00] = .ok (.encode 0x02 0x22 []) := by decide
/-- V-E5. -/
theorem test_decode_decode :
    decodeHost [0x03, 0x04, 0xFF, 0xFF, 0x02, 0x20, 0x00, 0x04, 0xFF, 0x00, 0x00, 0x00, 0xDA] =
      .ok (.decode [0xFF, 0xFF, 0x02, 0x20, 0x00, 0x04] [0xFF, 0x00, 0x00, 0x00] 0xDA) := by decide
/-- V-E8. -/
theorem test_decode_send :
    decodeHost [0x04, 0xFF, 0xFF, 0x02, 0x20, 0x00, 0x04, 0xFF, 0x00, 0x00, 0x00, 0xDA] = .ok (.send frameF) := by decide
/-- V-E9. -/
theorem test_decode_syncReq :
    decodeHost [0x05, 0xFF, 0xFF, 0x02, 0x22, 0x00, 0x00, 0xDB] = .ok (.syncReq frameW) := by decide
/-- V-E10 and V-E11. -/
theorem test_decode_tick_start : decodeHost [0x06] = .ok .tick ∧ decodeHost [0x07] = .ok .start := by decide
/-- V-E12 and V-E13. -/
theorem test_decode_reserved :
    [0x00, 0x08, 0x7F, 0x85, 0xFF].all (fun op => decide (decodeHost [op] = .ok (.reserved op))) = true := by decide
/-- V-E14. -/
theorem test_decode_internal :
    [0x80, 0x81, 0x82, 0x83, 0x84].all (fun op => decide (decodeHost [op] = .error (.internalCode op))) = true := by
  decide
/-- V-E15 and V-E16. -/
theorem test_decode_truncated :
    decodeHost [0x02, 0x02, 0x20, 0x04, 0xFF, 0x00] = .error (.truncated 0x02) ∧
      decodeHost [0x04, 0xFF, 0xFF, 0x02, 0x20, 0x00, 0x04, 0xFF] = .error (.truncated 0x04) := by decide
/-- The labels of R80. -/
theorem test_decode_labels :
    decodeLabel [0x80] = .ok .txStepTake ∧ decodeLabel [0x81] = .ok .txStepWrite ∧ decodeLabel [0x82] = .ok .rxStep ∧
      decodeLabel [0x83] = .ok .syncPoll ∧ decodeLabel [0x84] = .ok .asyncStep ∧
      decodeLabel [0x85] = .error (.noLabel 0x85) := by decide
/-- The frame of W1, on the transmit side (R70). -/
theorem test_decode_wireTx :
    decodeWireTx frameAck = .ok (.frameTx frameAck) ∧ decodeWireTx frameAsync = .error .noStartBytes ∧
      decodeWireTx (frameAck ++ [0]) = .error .badFrameLength := by decide
/-- V-RX1, V-RX4 and V-RX9: the marker alone selects the class (R73, R74). -/
theorem test_decode_wireRx :
    decodeWireRx frameAck = .ok (.frameRxSync frameAck) ∧
      decodeWireRx (frameAck.set 0 0) = .ok (.frameRxSync (frameAck.set 0 0)) ∧
      decodeWireRx frameAsync = .ok (.frameRxAsync frameAsync) ∧
      decodeWireRx frameOther = .ok (.frameRxOther frameOther) := by decide
/-- W5 and V-A5 (R76). -/
theorem test_decode_shapes :
    shapeInstr 8 frameC = .asyncCollision frameC ∧ shapeInstr 8 frameS = .asyncSample frameS ∧
      shapeInstr 8 frameC' = .asyncOther frameC' := by decide
/-- The table's own numbering (R70: byte 0 is the high byte of a wire row). -/
theorem test_decode_table_words :
    decodeTableWord 8 0x01 = some (.cksum []) ∧ decodeTableWord 8 0x02 = some (.encode 0 0 []) ∧
      decodeTableWord 8 0x03 = some (.decode [0, 0, 0, 0, 0, 0] [] 0) ∧
      decodeTableWord 8 0x04 = some (.send [0, 0, 0, 0, 0, 0, 0]) ∧ decodeTableWord 8 0x80 = some .txStepTake ∧
      decodeTableWord 8 0x00 = some (.reserved 0) ∧
      decodeTableWord 16 0x00FF = some (.frameRxSync [0, 0xFF, 0, 0, 0, 0, 0]) ∧
      decodeTableWord 16 0x00FE = some (.frameRxAsync [0, 0xFE, 0, 0, 0, 0, 0]) ∧
      decodeTableWord 16 0x0000 = some (.frameRxOther [0, 0, 0, 0, 0, 0, 0]) := by decide

/-- A placed table word is what the next step runs from reset: START sets RUN, ENCODE returns its frame. -/
theorem test_fetch_host :
    field (step (State.reset.withFetchWord 8 0x07)) State.run = some true ∧
      field (step (State.reset.withFetchWord 8 0x02)) State.results =
        some [⟨0, [0xFF, 0xFF, 0x00, 0x00, 0x00, 0x00, 0xFF]⟩] := by decide
/-- A placed frame goes out on the wire, or is completed by the framer. -/
theorem test_fetch_wire :
    field (step (State.reset.withFetchWord 16 0xFFFF)) State.txs = some [0xFF, 0xFF, 0, 0, 0, 0, 0] ∧
      field (step (State.reset.withFetchWord 16 0x00FF)) State.trace = some [.rxChecksumMismatch] := by decide

/-! ### One step each -/

/-- V-C6 and V-C5. -/
theorem test_cksum : cksum [0x80, 0x80] = 0xFF ∧ cksum [0xFF, 0xFF, 0xFF, 0xFF] = 0x03 := by decide
/-- V-C9. -/
theorem test_exec_cksum :
    field (exec (.cksum [0x02, 0x20, 0x00, 0x04, 0xFF, 0x00, 0x00, 0x00]) idle) State.results = some [⟨0, [0xDA]⟩] := by
  decide
/-- V-N2. -/
theorem test_exec_encode :
    field (exec (.encode 0x02 0x20 [0xFF]) { idle with seq := 0xFF }) State.results =
      some [⟨0, [0xFF, 0xFF, 0x02, 0x20, 0xFF, 0x01, 0xFF, 0xDE]⟩] := by decide
/-- V-N5. -/
theorem test_exec_encode_long (b : Bytes) (h : b.length = 256) :
    field (exec (.encode 0 0 b) idle) (fun t => (t.refusal, t.results, t.trace)) =
      some (true, [], [.encodeBodyTooLong 256]) := by
  simp [exec, execEncode, refuse, field, after, idle, State.reset, raise, h]
/-- V-D2. -/
theorem test_exec_decode_valid :
    field (exec (.decode [0x00, 0x00, 0x02, 0x20, 0x00, 0x04] [0xFF, 0x00, 0x00, 0x00] 0xDA) idle) State.results =
      some [⟨0, [0x00, 0x00, 0x00, 0x02, 0x20, 0x00, 0x04, 0xFF, 0x00, 0x00, 0x00, 0xDA]⟩] := by decide
/-- V-D6: the length check comes first. -/
theorem test_exec_decode_length_first :
    field (exec (.decode [0xFF, 0xFF, 0x02, 0x20, 0x00, 0x04] [0xFF, 0x00, 0x00] 0xDB) idle) State.results =
      some [⟨0, [0x08]⟩] := by decide
/-- V-T8: no validation. -/
theorem test_exec_send :
    field (exec (.send [0x00, 0x00, 0x01, 0x02, 0x03, 0x00, 0x00]) idle) (fun t => (t.txq, t.results)) =
      some ([[0x00, 0x00, 0x01, 0x02, 0x03, 0x00, 0x00]], [⟨0, []⟩]) := by decide
/-- V-T9: the second SEND holds. -/
theorem test_exec_send_holds :
    field (step { withCaller [.bytes (4 :: frameF)] .idle with cfg := ⟨1, none, none, 0, 7, 8⟩, txq := [frameA] })
        (fun t => (t.txq, t.callers, t.trace, t.results)) = some ([frameA], [⟨[], .holding frameF⟩], [], []) := by decide
/-- V-T1. -/
theorem test_exec_take :
    field (exec .txStepTake { running with txq := [frameA, frameF] }) (fun t => (t.txq, t.txcur, t.phaseTxw)) =
      some ([frameF], some frameA, .busy) := by decide
/-- V-T2. -/
theorem test_exec_write_full :
    field (exec .txStepWrite (busy .all)) (fun t => (t.seq, t.txs, t.phaseTxw, t.evlog)) =
      some (0x06, frameA, .idle, []) := by decide
/-- V-T3. -/
theorem test_exec_write_short :
    field (exec .txStepWrite (busy (.upTo 4))) (fun t => (t.seq, t.txs, t.evlog)) =
      some (0x05, [0xFF, 0xFF, 0x02, 0x30], [⟨.error, [0x02, 0x00, 0x04]⟩]) := by decide
/-- V-T5 and V-T6. -/
theorem test_exec_write_error :
    field (exec .txStepWrite (busy .err)) (fun t => (t.seq, t.txcur, t.evlog)) = some (0x05, none, [⟨.error, [0x01]⟩]) ∧
      field (exec .txStepWrite { busy .all with seq := 0xFF }) State.seq = some 0x00 := by decide
/-- V-T7, for the frame as a wire row: its own sequence byte is ignored. -/
theorem test_exec_frameTx :
    field (exec (.frameTx [0xFF, 0xFF, 0x00, 0x00, 0x99, 0x00, 0x66])
        { busy .all with seq := 0x10, txcur := some [0xFF, 0xFF, 0x00, 0x00, 0x99, 0x00, 0x66] }) State.seq =
      some 0x11 := by decide
/-- V-RX1, its first read and its second. -/
theorem test_exec_rx :
    field (exec .rxStep (framer .hdr [] frameAsync)) (fun t => (t.phaseRxf, t.abuf.length, t.rxs)) =
        some (.chk, 6, [0xF8]) ∧
      field (exec .rxStep (framer .chk (frameAsync.take 6) [0xF8])) (fun t => (t.phaseRxf, t.abuf, t.asyncbuf)) =
        some (.hdr, [], [frameAsync]) := by decide
/-- V-RX6: the error discards ABUF. -/
theorem test_exec_rx_error :
    field (exec .rxStep { framer .body (frameAck.take 5 ++ [0x01]) [0x55] with rxAnswers := [.err] })
      (fun t => (t.phaseRxf, t.abuf, t.rxs, t.trace)) = some (.hdr, [], [0x55], [.rxIoError]) := by decide
/-- V-RX11. -/
theorem test_exec_frameRxSync :
    field (exec (.frameRxSync [0xFF, 0xFF, 0, 0, 1, 1, 0x55, 0xA8])
        { running with cfg := ⟨4, some 1, none, 0, 7, 8⟩, syncbuf := [frameAck] }) (fun t => (t.syncbuf, t.trace)) =
      some ([[0xFF, 0xFF, 0, 0, 1, 1, 0x55, 0xA8]], [.syncbufOverflow]) := by decide
/-- V-RX8's second frame. -/
theorem test_exec_frameRxAsync :
    field (exec (.frameRxAsync frameAsync) running) (fun t => (t.asyncbuf, t.syncbuf)) = some ([frameAsync], []) := by
  decide
/-- V-RX4. -/
theorem test_exec_frameRxOther :
    field (exec (.frameRxOther frameOther) running) (fun t => (t.syncbuf, t.asyncbuf, t.trace)) =
      some ([], [], [.rxUnknownMarker 0x42]) := by decide
/-- V-S5's issue: the request is queued with RUN = 0. -/
theorem test_exec_syncReq :
    field (step (withCaller [.bytes (5 :: frameW)] .idle)) (fun t => (t.txq, t.callers)) =
      some ([frameW], [⟨[], .waiting ⟨.poll, frameW, 0⟩⟩]) := by decide
/-- V-S6: on a full queue it holds in `W_SEND` and makes no poll. -/
theorem test_exec_syncReq_holds :
    field (step { withCaller [.bytes (5 :: frameW)] .idle with cfg := ⟨1, none, none, 0, 7, 8⟩, txq := [frameA] })
      (fun t => (t.txq, t.callers)) = some ([frameA], [⟨[], .waiting ⟨.send, frameW, 0⟩⟩]) := by decide
/-- V-S1: the lowest-index match is returned. -/
theorem test_exec_poll_lowest :
    field (step (waiting 0 [[0xFF, 0xFF, 0, 0, 0, 1, 1, 0xFD], [0xFF, 0xFF, 0, 0, 0, 1, 2, 0xFC]])) State.results =
      some [⟨0, [0x00, 0xFF, 0xFF, 0, 0, 0, 1, 1, 0xFD]⟩] := by decide
/-- V-S2: poll 499 returns nothing, poll 500 the empty result; the empty-bodied entry stays. -/
theorem test_exec_poll_timeout :
    field (step (waiting 498 [frameAck])) (fun t => (t.results, t.callers)) =
        some ([], [⟨[], .waiting ⟨.poll, frameW, 499⟩⟩]) ∧
      field (step (waiting 499 [frameAck])) (fun t => (t.results, t.callers, t.syncbuf, t.trace)) =
        some ([⟨0, [0x07]⟩], [⟨[], .idle⟩], [frameAck], [.syncTimeout]) := by decide
/-- V-A1 and V-A2. -/
theorem test_exec_tick :
    field (exec .tick idle) State.drain = some false ∧
      field (exec .tick { running with drain := true }) State.drain = some true := by decide
/-- V-A8's first step and V-A3. -/
theorem test_exec_async :
    field (exec .asyncStep (draining [frameC, frameS])) (fun t => (t.asyncbuf, t.evlog, t.drain)) =
        some ([frameC], [⟨.sensordata, frameS⟩], true) ∧
      field (exec .asyncStep (draining [])) (fun t => (t.drain, t.evlog)) = some (false, []) := by decide
/-- V-A6. -/
theorem test_exec_collision :
    field (exec .asyncStep (draining [frameC])) State.evlog = some [⟨.collision, frameC⟩] ∧
      field (exec (.asyncCollision frameC) (draining [])) State.evlog = some [⟨.collision, frameC⟩] := by decide
/-- V-A7. -/
theorem test_exec_sample :
    field (exec (.asyncSample frameS) (draining [])) State.evlog = some [⟨.sensordata, frameS⟩] := by decide
/-- V-A4 and V-A5. -/
theorem test_exec_other :
    field (exec .asyncStep (draining [frameAsync])) (fun t => (t.evlog, t.trace)) =
        some ([], [.asyncUnrecognisedShape 7]) ∧
      field (exec (.asyncOther frameC') (draining [])) State.trace = some [.asyncUnrecognisedShape 22] := by decide
/-- V-K1. -/
theorem test_exec_start :
    field (exec .start idle) (fun t => (t.run, t.seq, t.txq)) = some (true, 0x00, []) := by decide
/-- ENCSYNC of W4 (R84): its first step returns the frame, and the caller issues SYNC_REQ of it next. -/
theorem test_encsync :
    field (step (withCaller [.pseudo .encSync 0x02 0x22 []] .idle)) (fun t => (t.results, t.callers)) =
      some ([⟨0, frameW⟩], [⟨[.bytes (0x05 :: frameW)], .idle⟩]) := by decide
/-- ENCSEND of P1's first frame (R84). -/
theorem test_encsend :
    field (step (withCaller [.pseudo .encSend 0x02 0x30 [0x80, 0x00, 0x5A, 0x01]] .idle)) State.callers =
      some [⟨[.bytes [0x04, 0xFF, 0xFF, 0x02, 0x30, 0x00, 0x04, 0x80, 0x00, 0x5A, 0x01, 0xEE]], .idle⟩] := by decide
/-- R322: after Reset TXS holds the bytes it held and a prefix of the current frame. -/
theorem test_reset_txcur :
    field (step { busy .all with txs := frameF, sched := [.reset] })
      (fun t => (t.txs.take 11, t.txcur, t.phaseTxw, t.seq, t.run)) = some (frameF, none, .idle, 0x00, false) := by decide
/-- V-E12: no state change, the mark set. -/
theorem test_exec_reserved :
    after (exec (.reserved 0x00) idle) = some { idle with refusal := true, trace := [.illegalOp (some 0x00)] } := by decide

/-! ### Witnesses: for every statement with hypotheses, states and operands that meet them all, clause by clause -/

/-- V-C6, V-C3 and V-C10. -/
theorem witness_CksumReturnsComplementOfSum :
    (([0x80, 0x80] : Bytes).map BitVec.toNat).sum % 256 = 0 ∧ (([0xFF] : Bytes).map BitVec.toNat).sum % 256 = 255 ∧
      ([0x02, 0x20] : Bytes).Perm [0x20, 0x02] := by decide

theorem witness_ChecksumLaws : (0x02 : Byte) ≠ 0x03 ∧ (0xFF : Byte) + 0x00 = 0x00 + 0xFF := by decide

/-- Both sides of the limit, 255 and 256 bytes. -/
theorem witness_EncodeReturnsStampedFrame :
    (List.replicate 255 (0 : Byte)).length ≤ 255 ∧ 255 < (List.replicate 256 (0 : Byte)).length := by
  constructor <;> rw [List.length_replicate]
  omega

theorem witness_DecodeOfEncodeIsValid : ([] : Bytes).length ≤ 255 ∧ (List.replicate 255 (0 : Byte)).length ≤ 255 :=
  ⟨by decide, by rw [List.length_replicate]⟩

/-- V-D7, V-D5 and V-D4. -/
theorem witness_DecodeValidatesLengthThenChecksum :
    let h : Bytes := [0xFF, 0xFF, 0x00, 0x00, 0x00, 0x00]
    h.length = 6 ∧ ([0x01] : Bytes).length ≠ (byteAt h 5).toNat ∧ ([] : Bytes).length = (byteAt h 5).toNat ∧
      (0xFE : Byte) ≠ cksum (h.drop 2 ++ []) ∧ (0xFF : Byte) = cksum (h.drop 2 ++ []) := by decide

/-- W2: the first covered byte, the length byte, the checksum byte. -/
theorem witness_DecodeFindsOneChangedByte :
    lengthMatches frameF = true ∧ checksumMatches frameF = true ∧
      [(2, 0x03), (5, 0x05), (10, 0xDB)].all (fun x => decide (2 ≤ x.1 ∧ x.1 < frameF.length ∧ x.2 ≠ byteAt frameF x.1)) =
        true := by decide

/-- TXQ one short of its depth, and at it. -/
theorem witness_SendEnqueuesOrHolds :
    let s := { idle with txq := [frameA, frameA, frameA] }
    let s' := { idle with txq := [frameA, frameA, frameA, frameA] }
    s.txq.length < s.cfg.txqDepth ∧ s'.cfg.txqDepth ≤ s'.txq.length := by decide

theorem witness_HeldSendWaitsForRoom :
    let s := withCaller [] (.holding frameF)
    let s' := { s with txq := [frameA, frameA, frameA, frameA] }
    s.sched = .host 0 :: [] ∧ s.callers[0]? = some ⟨[], .holding frameF⟩ ∧ s.txq.length < s.cfg.txqDepth ∧
      s'.cfg.txqDepth ≤ s'.txq.length := by decide

theorem witness_TakeDequeuesOldestFrame :
    let s := { running with txq := [frameA, frameF] }
    (s.run = true ∧ s.phaseTxw = .idle ∧ s.txq = frameA :: [frameF]) ∧
      idle.run = false ∧ (busy .all).phaseTxw = .busy ∧ running.txq = [] := by decide

/-- A full answer in both forms, the two short answers at the ends of their range, ERR, and none; and each reason not to
write. -/
theorem witness_WriteFollowsTransportAnswer :
    let s := busy .all
    (s.run = true ∧ s.phaseTxw = .busy ∧ s.txcur = some frameA ∧ s.txAnswers = .all :: []) ∧
      { s with txAnswers := [] }.txAnswers = [] ∧ (busy (.upTo 11)).txAnswers = .upTo frameA.length :: [] ∧
      ((busy (.upTo 0)).txAnswers = .upTo 0 :: [] ∧ 0 < frameA.length) ∧
      ((busy (.upTo 10)).txAnswers = .upTo 10 :: [] ∧ 10 < frameA.length) ∧
      (busy .err).txAnswers = .err :: [] ∧ idle.run = false ∧ running.phaseTxw = .idle := by
  decide

theorem witness_WriteCornersStayInBounds :
    let s := busy (.upTo 12)
    (s.run = true ∧ s.phaseTxw = .busy ∧ s.txcur = some frameA ∧ s.txAnswers = .upTo 12 :: [] ∧ frameA.length < 12) ∧
      running.txcur = none := by decide

theorem witness_FrameTxGoesOutWhole :
    let s := busy .all
    s.run = true ∧ s.phaseTxw = .busy ∧ s.txcur = some frameA ∧ s.txAnswers = .all :: [] ∧ s.txcur ≠ some frameF := by
  decide

/-- A run of one full write. -/
theorem witness_SeqCountsFullWrites :
    let s := { busy .all with sched := [.agent .txWrite] }
    Move.reset ∉ s.sched ∧ (runSteps 1 s = .next { s with
      sched := [], txAnswers := [], txcur := none, phaseTxw := .idle, txs := frameA, seq := 0x06 }) ∧
      fullWrites 1 s = 1 := ⟨by decide, rfl, by decide⟩

theorem witness_TransmitOrderIsQueueOrder :
    let s := { busy .all with sched := [.agent .txWrite] }
    s.txPhaseOk = true ∧ s.sched.head? ≠ some .reset ∧ s.sched.head? = some (.agent .txWrite) ∧ s.txAnswers ≠ [] ∧
      s.writeReady = true ∧ nextIsFullWrite s = true ∧ (step s = .next { s with
        sched := [], txAnswers := [], txcur := none, phaseTxw := .idle, txs := frameA, seq := 0x06 }) :=
  ⟨by decide, by decide, by decide, by decide, by decide, by decide, rfl⟩

theorem witness_ReadErrorDiscardsPartialFrame :
    let s := { framer .body (frameAck.take 5 ++ [0x01]) [0x55] with rxAnswers := [.err] }
    s.run = true ∧ s.rxAnswers = .err :: [] := by decide

/-- An empty read and one byte short of the header; and each reason to hold. -/
theorem witness_PartialReadKeepsPhase :
    let s := framer .hdr [] (frameAsync.take 5)
    (s.run = true ∧ s.rxPhaseOk = true ∧ s.rxAnswers = .upTo 262 :: [] ∧
        s.rxs.take (min 0 (need s.phaseRxf s.abuf)) = [] ∧ 0 < need s.phaseRxf s.abuf ∧
        s.rxs.take (min 262 (need s.phaseRxf s.abuf)) = frameAsync.take 5 ∧ 5 < need s.phaseRxf s.abuf) ∧
      idle.run = false ∧ running.rxAnswers = [] := by decide

/-- The header of an empty body, the header of a body, and the last body byte. -/
theorem witness_CompletedPartMovesPhase :
    let s := framer .hdr [] frameAsync
    let s' := framer .hdr [] frameReply
    let s'' := framer .body (frameReply.take 6) [0x0A, 0x0B, 0x0C, 0xDB]
    (s.run = true ∧ s.rxPhaseOk = true ∧ s.rxAnswers = .upTo 262 :: [] ∧
        s.rxs.take (min 262 (need s.phaseRxf s.abuf)) = frameAsync.take 6 ∧ 6 = need s.phaseRxf s.abuf ∧
        s.phaseRxf = .hdr) ∧
      (s'.rxPhaseOk = true ∧ s'.rxs.take (min 262 (need s'.phaseRxf s'.abuf)) = frameReply.take 6) ∧
      s''.rxPhaseOk = true ∧ s''.rxs.take (min 262 (need s''.phaseRxf s''.abuf)) = [0x0A, 0x0B, 0x0C] ∧
      3 = need s''.phaseRxf s''.abuf ∧ s''.phaseRxf = .body := by decide

/-- V-RX3. -/
theorem witness_ChecksumMismatchDropsFrame :
    let s := framer .chk (frameAck.take 6) [0xFE]
    s.run = true ∧ s.rxPhaseOk = true ∧ s.phaseRxf = .chk ∧ s.rxAnswers = .upTo (261 + 1) :: [] ∧ s.rxs = 0xFE :: [] ∧
      0xFE ≠ cksum (s.abuf.drop 2) := by decide

/-- The three markers; V-RX11 for the finite depth. -/
theorem witness_MarkerRoutesCompletedFrame :
    let s := framer .chk (frameAck.take 6) [0xFF]
    let s' := framer .chk (frameAsync.take 6) [0xF8]
    let s'' := framer .chk (frameOther.take 7) [0xF4]
    let full := { s with cfg := ⟨4, some 1, none, 0, 7, 8⟩, syncbuf := [frameAck] }
    (s.run = true ∧ s.rxPhaseOk = true ∧ s.phaseRxf = .chk ∧ s.rxAnswers = .upTo (261 + 1) :: [] ∧
        s.rxs = 0xFF :: [] ∧ 0xFF = cksum (s.abuf.drop 2) ∧ byteAt s.abuf 1 = 0xFF) ∧
      (s'.rxPhaseOk = true ∧ 0xF8 = cksum (s'.abuf.drop 2) ∧ byteAt s'.abuf 1 = 0xFE) ∧
      (s''.rxPhaseOk = true ∧ 0xF4 = cksum (s''.abuf.drop 2) ∧ byteAt s''.abuf 1 ≠ 0xFF ∧ byteAt s''.abuf 1 ≠ 0xFE) ∧
      full.cfg.syncDepth = some full.syncbuf.length := by decide

theorem witness_FrameRxSyncReachesSyncbuf :
    running.run = true ∧ checksumMatches frameAck = true ∧ checksumMatches (frameAck.set 6 0xFE) = false ∧
      idle.run = false := by decide
theorem witness_FrameRxAsyncReachesAsyncbuf :
    running.run = true ∧ checksumMatches frameAsync = true ∧ checksumMatches (frameAsync.set 6 0xF9) = false ∧
      idle.run = false := by decide
theorem witness_FrameRxOtherIsDropped :
    running.run = true ∧ checksumMatches frameOther = true ∧ checksumMatches (frameOther.set 7 0xF5) = false ∧
      idle.run = false := by decide

/-- With an empty ABUF and with a whole header in it. -/
theorem witness_FramerNeverOverReads :
    let s := framer .hdr [] frameAsync
    let s' := framer .chk (frameAsync.take 6) [0xF8]
    (s.rxPhaseOk = true ∧ s.abuf.length < 6 ∧ (exec .rxStep s = .next { s with
        rxAnswers := [], rxs := [0xF8], abuf := frameAsync.take 6, phaseRxf := .chk })) ∧
      s'.rxPhaseOk = true ∧ 6 ≤ s'.abuf.length := ⟨⟨by decide, by decide, rfl⟩, by decide, by decide⟩

theorem witness_FramerCutsTheStream :
    let s := { framer .hdr [] frameAsync with sched := [.agent .rx] }
    s.run = true ∧ s.phaseRxf = .hdr ∧ s.abuf = [] ∧ ReadAnswer.err ∉ s.rxAnswers ∧ s.cfg.syncDepth = none ∧
      s.cfg.asyncDepth = none ∧ s.sched = List.replicate 1 (.agent .rx) ++ [] ∧ (runSteps 1 s = .next { s with
        sched := [], rxAnswers := [], rxs := [0xF8], abuf := frameAsync.take 6, phaseRxf := .chk }) :=
  ⟨by decide, by decide, by decide, by decide, by decide, by decide, by decide, rfl⟩

theorem witness_SyncReqQueuesAndWaits :
    let s := { idle with txq := [frameA, frameA, frameA] }
    let s' := { idle with txq := [frameA, frameA, frameA, frameA] }
    s.txq.length < s.cfg.txqDepth ∧ s'.cfg.txqDepth ≤ s'.txq.length := by decide

/-- A match behind an empty-bodied entry; no match on polls 499 and 500; no waiter. -/
theorem witness_SyncPollScansOnce :
    let s := waiting 0 [frameAck, frameReply]
    let s' := waiting 498 [frameAck]
    (s.callers[s.actor]? = some ⟨[], .waiting ⟨.poll, frameW, 0⟩⟩ ∧ s.syncbuf = [frameAck] ++ frameReply :: [] ∧
        (∀ x ∈ [frameAck], ¬(byteAt x 4 = byteAt frameW 4 ∧ s.cfg.syncLenThreshold < x.length)) ∧
        byteAt frameReply 4 = byteAt frameW 4 ∧ s.cfg.syncLenThreshold < frameReply.length) ∧
      (s'.callers[s'.actor]? = some ⟨[], .waiting ⟨.poll, frameW, 498⟩⟩ ∧
        (∀ x ∈ s'.syncbuf, ¬(byteAt x 4 = byteAt frameW 4 ∧ s'.cfg.syncLenThreshold < x.length)) ∧ 498 + 1 ≠ 500) ∧
      499 + 1 = 500 ∧ idle.callers[idle.actor]? = none := by decide

/-- The last poll of the budget, and a whole budget still to spend. -/
theorem witness_PollBudgetEndsInEmptyResult :
    let s := waiting 499 [frameAck]
    let s' := { waiting 0 [frameAck] with sched := List.replicate 500 (Move.agent (.poll 0)) ++ [] }
    (499 < 500 ∧ s.callers[0]? = some ⟨[], .waiting ⟨.poll, frameW, 499⟩⟩ ∧
        (∀ x ∈ s.syncbuf, ¬(byteAt x 4 = byteAt frameW 4 ∧ s.cfg.syncLenThreshold < x.length)) ∧
        s.sched = List.replicate (500 - 499) (.agent (.poll 0)) ++ []) ∧
      s'.callers[0]? = some ⟨[], .waiting ⟨.poll, frameW, 0⟩⟩ ∧
      s'.sched = List.replicate (500 - 0) (.agent (.poll 0)) ++ [] :=
  ⟨by decide, by decide, rfl⟩

theorem witness_PollRemovesWhatItReturns :
    let s := waiting 0 [frameReply]
    s.sched = .agent (.poll 0) :: [] ∧ (step s = .next { s with
      sched := [], syncbuf := [], draws := 1, callers := [⟨[], .idle⟩], results := [⟨0, 0x00 :: frameReply⟩] }) :=
  ⟨by decide, rfl⟩

theorem witness_TickStartsDrain : running.run = true ∧ idle.run = false := by decide

theorem witness_AsyncStepPopsNewestOrEndsDrain :
    let s := draining [frameC, frameS]
    (s.run = true ∧ s.drain = true ∧ s.asyncbuf = [frameC] ++ [frameS]) ∧ (draining []).asyncbuf = [] ∧
      idle.run = false ∧ running.drain = false := by decide

/-- C, S and C′ of W5 and V-A5. -/
theorem witness_ClassifyByLengthAndTag :
    let s := draining [frameC]
    (s.run = true ∧ s.drain = true ∧ s.asyncbuf = [] ++ [frameC] ∧ frameC.length = 22 ∧
        frameC[s.cfg.collTagIndex]? = some 17) ∧
      frameS.length = 90 ∧ frameC'.length ≠ 90 ∧
      ¬(frameC'.length = 22 ∧ frameC'[s.cfg.collTagIndex]? = some 17) := by decide

theorem witness_AsyncShapesEmitOrDiscard :
    (draining []).run = true ∧ (draining []).drain = true ∧ idle.run = false ∧ running.drain = false := by decide

theorem witness_DrainIsLastInFirstOut :
    let s := { draining [frameC, frameS] with sched := [.agent .async, .agent .async, .agent .async] }
    s.run = true ∧ s.drain = true ∧
      s.sched = List.replicate (s.asyncbuf.length + 1) (.agent .async) ++ [] := by decide

theorem witness_StartSetsRunOnly : running.run = true := by decide

/-- Each range of codes at its ends, and a truncated SEND (V-E12 to V-E16). -/
theorem witness_IllegalHostOperationIsRefused :
    let s := withCaller [.bytes [0x00]] .idle
    s.sched = .host 0 :: [] ∧ s.callers[0]? = some ⟨.bytes (0x00 :: []) :: [], .idle⟩ ∧ (0x00 : Byte).toNat = 0 ∧
      [0x08, 0x7F].all (fun op : Byte => decide (8 ≤ op.toNat ∧ op.toNat ≤ 0x7F)) = true ∧
      [0x85, 0xFF].all (fun op : Byte => decide (0x85 ≤ op.toNat)) = true ∧
      [0x80, 0x84].all (fun op : Byte => decide (0x80 ≤ op.toNat ∧ op.toNat ≤ 0x84)) = true ∧
      ([0x04, 0xFF, 0xFF, 0x02, 0x20, 0x00, 0x04, 0xFF] : Bytes).length <
        opLength [0x04, 0xFF, 0xFF, 0x02, 0x20, 0x00, 0x04, 0xFF] := by decide

theorem witness_StepRunsHostOperation :
    let s := withCaller [.bytes (4 :: frameF), .bytes [0x07]] .idle
    s.sched = .host 0 :: [] ∧ s.callers[0]? = some ⟨.bytes (4 :: frameF) :: [.bytes [0x07]], .idle⟩ ∧
      decodeHost (4 :: frameF) = .ok (.send frameF) := by decide

/-- With another caller's move, a worker's and Reset between, and a body on each side of the limit. -/
theorem witness_PseudoOperationPassesTheFrame :
    let mid : List Move := [.host 1, .agent .txTake, .reset]
    let s := { withCaller [.pseudo .encSend 0x02 0x20 [0xFF]] .idle with sched := .host 0 :: (mid ++ Move.host 0 :: []) }
    (s.sched = .host 0 :: (mid ++ Move.host 0 :: []) ∧ Move.host 0 ∉ mid ∧
        s.callers[0]? = some ⟨.pseudo .encSend 0x02 0x20 [0xFF] :: [], .idle⟩ ∧ ([0xFF] : Bytes).length ≤ 255) ∧
      255 < (List.replicate 256 (0 : Byte)).length := ⟨by decide, by rw [List.length_replicate]; omega⟩

theorem witness_StepRunsLabelledStep :
    let s := draining []
    s.sched = .agent .async :: [] ∧ decodeLabel [Label.async.code] = .ok .asyncStep := by decide

theorem witness_StepRunsFrameClass :
    let s := framer .chk (frameAck.take 6) [0xFF]
    let s' := draining [frameC]
    (s.run = true ∧ s.rxPhaseOk = true ∧ s.phaseRxf = .chk ∧ s.rxAnswers = .upTo (261 + 1) :: [] ∧
        s.rxs = 0xFF :: [] ∧ decodeWireRx (s.abuf ++ [0xFF]) = .ok (.frameRxSync frameAck)) ∧
      (s'.run = true ∧ s'.drain = true ∧ s'.asyncbuf = [] ++ [frameC]) ∧
      (busy .all).txcur = some frameA ∧ decodeWireTx frameA = .ok (.frameTx frameA) := by decide

/-- A well-formed instruction of every constructor. -/
theorem witness_DecodeOfEncodeIsIdentity :
    [Instr.cksum [1], .encode 2 0x20 [0xFF], .decode [1, 2, 3, 4, 5, 6] [7] 8, .send frameF, .syncReq frameW, .tick,
        .start, .txStepTake, .txStepWrite, .rxStep, .syncPoll, .asyncStep, .reserved 0x7F, .frameTx frameF,
        .frameRxSync frameAck, .frameRxAsync frameAsync, .frameRxOther frameOther, .asyncCollision frameC,
        .asyncSample frameS, .asyncOther frameC'].all (fun i => i.wellFormed idle.cfg) = true := by decide

theorem witness_ResetAbandonsEverything :
    { waiting 3 [frameReply] with sched := [.reset] }.sched = .reset :: [] ∧
      { busy .all with sched := [.reset] }.txcur = some frameA := by decide

/-- The invariant in a state with every buffer in use: a busy worker, a body half read, frames on both sides, a
waiter on its 500th poll. -/
theorem witness_EveryStepKeepsInvariant :
    let s := { busy .all with
      txq := [frameF], phaseRxf := .body, abuf := frameReply.take 8, syncbuf := [frameAck, frameReply]
      asyncbuf := [frameAsync], drain := true, callers := [⟨[], .waiting ⟨.poll, frameW, 499⟩⟩]
      sched := [.agent .txWrite] }
    s.Inv ∧ (step s = .next { s with
      sched := [], txAnswers := [], txcur := none, phaseTxw := .idle, txs := frameA, seq := 0x06 }) :=
  ⟨⟨by decide, by decide, by decide, by decide, by decide, by decide, by decide, by decide, by decide⟩, rfl⟩

theorem witness_DisabledStepHolds :
    enables .txStepTake running = false ∧ enables .txStepWrite running = false ∧ enables .rxStep running = false ∧
      enables .syncPoll running = false ∧ enables .asyncStep running = false ∧
      enables (.frameTx frameA) running = false ∧ enables (.frameRxSync frameAck) idle = false := by decide

/-- Gated workers, a step that keeps RUN, and the START that sets it. -/
theorem witness_RunGatesTheWorkers :
    let s := draining [frameC]
    let s' := withCaller [.bytes [0x07]] .idle
    (idle.run = false ∧ Instr.rxStep ∈ [Instr.txStepTake, .txStepWrite, .rxStep, .asyncStep]) ∧
      ((step s = .next { s with sched := [], asyncbuf := [], evlog := [⟨.collision, frameC⟩] }) ∧
        s.sched.head? ≠ some .reset ∧ s.run = true) ∧
      (step s' = .next { s' with sched := [], callers := [⟨[], .idle⟩], run := true, results := [⟨0, []⟩] }) ∧
      s'.run = false := ⟨by decide, ⟨rfl, by decide, by decide⟩, rfl, by decide⟩

theorem witness_OnlyFullWritesAdvanceSeq :
    let s := { busy .all with sched := [.agent .txWrite] }
    (step s = .next { s with
        sched := [], txAnswers := [], txcur := none, phaseTxw := .idle, txs := frameA, seq := 0x06 }) ∧
      s.sched.head? ≠ some .reset ∧ nextIsFullWrite s = true := ⟨rfl, by decide, by decide⟩

theorem witness_StepsKeepParameters :
    let s := draining []
    step s = .next { s with sched := [], drain := false } := rfl

/-- A write's event and a dispatch's. -/
theorem witness_EventsComeFromWritesAndDispatch :
    let s := { busy (.upTo 4) with sched := [.agent .txWrite] }
    let s' := draining [frameS]
    ((step s = .next { s with
        sched := [], txAnswers := [], txcur := none, phaseTxw := .idle, txs := frameA.take 4
        evlog := [⟨.error, [0x02, 0x00, 0x04]⟩], trace := [.txShortWrite 4] }) ∧ s.sched.head? ≠ some .reset) ∧
      (step s' = .next { s' with sched := [], asyncbuf := [], evlog := [⟨.sensordata, frameS⟩] }) ∧
      s'.sched.head? ≠ some .reset := ⟨⟨rfl, by decide⟩, rfl, by decide⟩

theorem witness_StepRaisesAtMostOneCause :
    let s := draining [frameAsync]
    step s = .next { s with sched := [], asyncbuf := [], trace := [.asyncUnrecognisedShape 7] } := rfl

/-- The step that sets the mark, and one after it. -/
theorem witness_RefusalMarkIsSticky :
    let s := withCaller [.bytes [0x81]] .idle
    let s' := { s with refusal := true }
    ((step s = .next { s with
        sched := [], callers := [⟨[], .idle⟩], trace := [.illegalOp (some 0x81)], refusal := true }) ∧
        s.refusal = false) ∧
      (step s' = .next { s' with sched := [], callers := [⟨[], .idle⟩], trace := [.illegalOp (some 0x81)] }) ∧
      s'.refusal = true := ⟨⟨rfl, by decide⟩, rfl, by decide⟩

/-- Caller 0 issues START; caller 1 is waiting and keeps its context. -/
theorem witness_StepTouchesOnlyItsCaller :
    let c : Caller := ⟨[], .waiting ⟨.poll, frameW, 7⟩⟩
    let s := { idle with callers := [⟨[.bytes [0x07]], .idle⟩, c], sched := [.host 0] }
    (step s = .next { s with sched := [], callers := [⟨[], .idle⟩, c], run := true, results := [⟨0, []⟩] }) ∧
      s.sched.head? ≠ some .reset ∧ s.sched.head? ≠ some (.host 1) ∧ s.sched.head? ≠ some (.agent (.poll 1)) :=
  ⟨rfl, by decide, by decide, by decide⟩

theorem witness_TransportInputsReachOnlyTheirQueues :
    let s := { idle with sched := [.transport (.bytes [0x55])] }
    let s' := { idle with sched := [.transport (.readAnswer .err)] }
    let s'' := { idle with sched := [.transport (.writeAnswer (.upTo 3))] }
    s.sched = .transport (.bytes [0x55]) :: [] ∧ s'.sched = .transport (.readAnswer .err) :: [] ∧
      s''.sched = .transport (.writeAnswer (.upTo 3)) :: [] := by decide

theorem witness_EchoedFrameReachesSyncbuf :
    ([0x80, 0x00, 0x5A, 0x01] : Bytes).length ≤ 255 ∧ running.run = true ∧ running.cfg.syncDepth = none := by decide

/-- A held `W_SEND` with room and without, a caller in `W_POLL`, one with nothing to issue, and one that is not. -/
theorem witness_WaitingCallerMoves :
    let s := withCaller [] (.waiting ⟨.send, frameW, 0⟩)
    let s' := { s with txq := [frameA, frameA, frameA, frameA] }
    (s.sched = .host 0 :: [] ∧ s.callers[0]? = some ⟨[], .waiting ⟨.send, frameW, 0⟩⟩ ∧
        s.txq.length < s.cfg.txqDepth ∧ s'.cfg.txqDepth ≤ s'.txq.length) ∧
      (withCaller [] (.waiting ⟨.poll, frameW, 3⟩)).callers[0]? = some ⟨[], .waiting ⟨.poll, frameW, 3⟩⟩ ∧
      (withCaller [] .idle).callers[0]? = some ⟨[], .idle⟩ ∧ { idle with sched := [.host 0] }.callers[0]? = none := by
  decide

end Sys2Proof.Tests
end

section
/-! PROOFS. The engine's invariant: one lemma for each operation of the machine, then for what an instruction, a host
move and a step do, and the two statements about it. -/

namespace Sys2Proof.Machine

section
variable {s t : State}

/-! ### The parts of the invariant -/

theorem legal_depths {c : Config} (h : c.legal = true) : c.syncDepth ≠ some 0 ∧ c.asyncDepth ≠ some 0 := by
  simp_all [Config.legal]

/-- The three consistent states of the framer. -/
theorem rxPhaseOk_iff (s : State) :
    s.rxPhaseOk = true ↔
      (s.phaseRxf = .hdr ∧ s.abuf.length < 6) ∨
      (s.phaseRxf = .body ∧ 6 ≤ s.abuf.length ∧ s.abuf.length < 6 + bodyLen s.abuf) ∨
      (s.phaseRxf = .chk ∧ s.abuf.length = 6 + bodyLen s.abuf) := by
  unfold State.rxPhaseOk
  cases s.phaseRxf <;> simp

/-- A shorter buffer stays within the depth (R25, R26). -/
theorem withinDepth_mono {d : Option Nat} {b b' : List Frame} (hlen : b'.length ≤ b.length)
    (h : withinDepth d b = true) : withinDepth d b' = true := by
  cases d with
  | none => rfl
  | some n => exact decide_eq_true (hlen.trans (of_decide_eq_true h))

/-- A push that discards the oldest entry of a full buffer stays within a depth that is not 0 (R25, R26). -/
theorem withinDepth_push {d : Option Nat} {b : List Frame} (f : Frame) (hd : d ≠ some 0)
    (h : withinDepth d b = true) :
    withinDepth d ((if d = some b.length then b.drop 1 else b) ++ [f]) = true := by
  cases d with
  | none => rfl
  | some n =>
    have hn : n ≠ 0 := fun h0 => hd (congrArg some h0)
    simp only [withinDepth, decide_eq_true_eq, Option.some.injEq] at h ⊢
    split <;> simp <;> omega

/-- What holds of a buffer's entries and of the frame pushed holds of the buffer's entries after the push. -/
theorem forall_mem_push {p : Frame → Prop} {b : List Frame} {f : Frame} (c : Prop) [Decidable c]
    (h : ∀ g ∈ b, p g) (hf : p f) : ∀ g ∈ (if c then b.drop 1 else b) ++ [f], p g := by
  intro g hg
  obtain hg | hg := List.mem_append.mp hg
  · split at hg
    · exact h g (List.mem_of_mem_drop hg)
    · exact h g hg
  · rwa [List.mem_singleton.mp hg]

/-- Changing one caller keeps what holds of every caller and of the changed one. -/
theorem forall_mem_modify {p : Caller → Prop} {l : List Caller} {g : Caller → Caller} (k : Nat)
    (h : ∀ c ∈ l, p c) (hg : ∀ c ∈ l, p (g c)) : ∀ c ∈ l.modify k g, p c := by
  intro c hc
  obtain ⟨j, hj⟩ := List.mem_iff_getElem?.mp hc
  rw [List.getElem?_modify] at hj
  obtain ⟨c', hc', rfl⟩ := Option.map_eq_some_iff.mp hj
  have hmem := List.mem_of_getElem? hc'
  split
  · exact hg c' hmem
  · exact h c' hmem

/-! ### Every operation keeps the invariant -/

theorem raise_inv (c : Cause) (h : s.Inv) : (raise c s).Inv := { h with }

theorem emit_inv (p : Topic) (b : Bytes) (h : s.Inv) : (emit p b s).Inv := { h with }

theorem refuse_inv (c : Cause) (h : s.Inv) : (refuse c s).Inv := { h with }

theorem answer_inv (v : Bytes) (h : s.Inv) : (answer v s).Inv := { h with }

theorem tickDrain_inv (h : s.Inv) : s.tickDrain.Inv := { h with }

theorem startRun_inv (h : s.Inv) : s.startRun.Inv := { h with }

theorem actAs_inv (k : Nat) (h : s.Inv) : (actAs k s).Inv := { h with }

theorem scheduled_inv (ms : List Move) (h : s.Inv) : (scheduled ms s).Inv := { h with }

theorem transportInput_inv (x : TransportInput) (h : s.Inv) : (transportInput x s).Inv := by
  cases x <;> exact { h with }

/-- A caller's program is no part of the invariant. -/
theorem dropOperation_inv (h : s.Inv) : (dropOperation s).Inv :=
  { h with waiters := forall_mem_modify _ h.waiters fun c hc => h.waiters c hc }

theorem pushOperation_inv (o : HostOp) (h : s.Inv) : (pushOperation o s).Inv :=
  { h with waiters := forall_mem_modify _ h.waiters fun c hc => h.waiters c hc }

/-- A new status with polls left, or without polls, keeps the invariant. -/
theorem setStatus_inv {st : CallerStatus} (hst : ∀ c : Caller, waiterOk { c with status := st } = true) (h : s.Inv) :
    (setStatus st s).Inv :=
  { h with waiters := forall_mem_modify _ h.waiters fun c _ => hst c }

theorem enqueue_inv (f : Frame) (hroom : s.txq.length < s.cfg.txqDepth) (h : s.Inv) : (enqueue f s).Inv :=
  { h with txqBound := by simp only [enqueue, List.length_append, List.length_singleton]; omega }

theorem pushSync_inv {f : Frame} (hf : entryOk .sync f = true) (h : s.Inv) : (pushSync f s).Inv := by
  rw [pushSync_eq]
  exact { h with
    syncEntries := forall_mem_push _ h.syncEntries hf
    syncBound := withinDepth_push f (legal_depths h.legal).1 h.syncBound }

theorem pushAsync_inv {f : Frame} (hf : entryOk .async f = true) (h : s.Inv) : (pushAsync f s).Inv := by
  rw [pushAsync_eq]
  exact { h with
    asyncEntries := forall_mem_push _ h.asyncEntries hf
    asyncBound := withinDepth_push f (legal_depths h.legal).2 h.asyncBound }

/-- COMMIT of a whole frame: only a good checksum and the buffer's own marker lead to a push (R165 to R167). -/
theorem commit_inv {f : Frame} (hf : lengthMatches f = true) (h : s.Inv) : (commit f s).Inv := by
  obtain ⟨-, heq⟩ | ⟨hc, hm, heq⟩ | ⟨hc, hm, heq⟩ | ⟨-, -, heq⟩ := commit_cases f s <;> rw [heq]
  · exact raise_inv _ h
  · exact pushSync_inv (by simp [entryOk, hf, hc, hm]) h
  · exact pushAsync_inv (by simp [entryOk, hf, hc, hm]) h
  · exact raise_inv _ h

/-- A read of at most the bytes the framer needs keeps ABUF in agreement with its phase, and what it completes is a
whole frame (R160, R163). -/
theorem absorb_inv {r : Bytes} (hr : r.length ≤ need s.phaseRxf s.abuf) (h : s.Inv) : (absorb r s).Inv := by
  have hbody : 6 ≤ s.abuf.length → bodyLen (s.abuf ++ r) = bodyLen s.abuf := bodyLen_append
  have hok := (rxPhaseOk_iff s).mp h.rxPhase
  unfold absorb
  obtain ⟨heq, hph⟩ | ⟨hp, hl, heq⟩ | ⟨hp, hl, heq⟩ | ⟨hp, hl, heq⟩ :=
      advanceFramer_cases { s with rxs := s.rxs.drop r.length, abuf := s.abuf ++ r } <;> rw [heq]
  case inl =>
    refine { h with rxPhase := (rxPhaseOk_iff _).mpr ?_ }
    obtain ⟨hp, hb⟩ | ⟨hp, hb, hb'⟩ | ⟨hp, hb⟩ := hok
    · refine .inl ⟨hp, ?_⟩
      simp [hp, need] at hr hph ⊢
      omega
    · refine .inr (.inl ⟨hp, ?_⟩)
      simp [hp, need, hbody hb] at hr hph ⊢
      omega
    · refine .inr (.inr ⟨hp, ?_⟩)
      simp [hp, need, hbody (by omega)] at hr hph ⊢
      omega
  case inr.inl =>
    refine { h with rxPhase := (rxPhaseOk_iff _).mpr ?_ }
    by_cases hb : bodyLen (s.abuf ++ r) = 0
    · exact .inr (.inr ⟨if_pos hb, by rw [hb]; exact hl⟩)
    · refine .inr (.inl ⟨if_neg hb, ?_⟩)
      simp only at hl ⊢
      omega
  case inr.inr.inl =>
    exact { h with rxPhase := (rxPhaseOk_iff _).mpr (.inr (.inr ⟨rfl, hl⟩)) }
  case inr.inr.inr =>
    have hf : lengthMatches (s.abuf ++ r) = true := beq_iff_eq.mpr (hl.trans (Nat.add_comm _ _))
    exact commit_inv hf { h with rxPhase := rfl }

theorem readError_inv (h : s.Inv) : (readError s).Inv := { h with rxPhase := rfl }

/-- After a write, whatever the answer, the worker is idle without a frame (R134, R135). -/
theorem writeFrame_inv (f : Frame) (a : WriteAnswer) (h : s.Inv) : (writeFrame f a s).Inv := by
  obtain ⟨-, heq⟩ | ⟨-, heq⟩ | ⟨n, -, -, -, heq⟩ := writeFrame_cases f a s <;> rw [heq] <;>
    exact { h with txPhase := rfl }

theorem classify_inv (e : Frame) (h : s.Inv) : (classify e s).Inv := by
  rw [classify_eq]
  exact { h with }

/-- A matching poll leaves the other entries in some order and an idle caller (R203, R204). -/
theorem pollHit_inv {a b : List Frame} {e : Frame} (hb : s.syncbuf = a ++ e :: b) (h : s.Inv) :
    (pollHit e (a ++ b) s).Inv := by
  have hperm := permute_perm (Config.freePermutation s.draws) (a ++ b)
  have hsub : (a ++ b).Sublist s.syncbuf := hb ▸ (List.sublist_cons_self e b).append_left a
  refine answer_inv _ (setStatus_inv (fun _ => rfl) { h with syncEntries := ?_, syncBound := ?_ })
  · exact fun f hf => h.syncEntries f (hsub.subset (hperm.subset hf))
  · exact withinDepth_mono (hperm.length_eq.trans_le hsub.length_le) h.syncBound

theorem pollTimeout_inv (h : s.Inv) : (pollTimeout s).Inv :=
  answer_inv _ (setStatus_inv (fun _ => rfl) (raise_inv _ h))

theorem resetEngine_inv (h : s.Inv) : (resetEngine s).Inv where
  legal := h.legal
  txPhase := rfl
  rxPhase := rfl
  txqBound := Nat.zero_le _
  syncEntries := by simp
  asyncEntries := by simp
  syncBound := withinDepth_mono (Nat.zero_le _) h.syncBound
  asyncBound := withinDepth_mono (Nat.zero_le _) h.asyncBound
  waiters := by simp [abandon, waiterOk]

/-! ### Every instruction of a caller or an agent, every move and every step keeps the invariant -/

/-- A host operation or a labelled step keeps the invariant. The frame classes alone need not: they push a frame whose
length nothing has matched. -/
theorem effect_inv {i : Instr} (hi : i.layer = .host ∨ i.layer = .label) (he : Effect i s t) (h : s.Inv) : t.Inv := by
  cases he with
  | hold => exact h
  | cksum | encode | decodeValid => exact answer_inv _ h
  | encodeTooLong | reserved => exact refuse_inv _ h
  | decodeLength | decodeChecksum => exact answer_inv _ (raise_inv _ h)
  | send f _ hroom => exact answer_inv _ (setStatus_inv (fun _ => rfl) (enqueue_inv f hroom h))
  | sendHolds | syncReqHolds => exact setStatus_inv (fun _ => rfl) h
  | syncReq w _ hroom => exact setStatus_inv (fun _ => rfl) (enqueue_inv w hroom h)
  | tick => exact answer_inv _ (tickDrain_inv h)
  | start => exact answer_inv _ (startRun_inv h)
  | take f q _ _ _ hq =>
    have hbound := h.txqBound
    rw [hq, List.length_cons] at hbound
    exact { h with txPhase := rfl, txqBound := Nat.le_of_succ_le hbound }
  | write f a as => exact writeFrame_inv f a { h with }
  | readError => exact readError_inv { h with }
  | read j as => exact absorb_inv (bytesRead_length j s) { h with }
  | pollHit _ _ _ a b e _ _ hb => exact pollHit_inv hb h
  | pollTimeout => exact pollTimeout_inv h
  | pollCounts prog w n _ hc _ hn =>
    have hpolls : n < 500 := of_decide_eq_true (h.waiters _ (List.mem_of_getElem? hc))
    have hnext : n + 1 < 500 := by omega
    exact setStatus_inv (fun _ => decide_eq_true hnext) h
  | drainEnds => exact { h with }
  | dispatch l e _ _ _ hl =>
    have hsub : l.Sublist s.asyncbuf := hl ▸ List.sublist_append_left l [e]
    exact classify_inv e { h with
      asyncEntries := fun f hf => h.asyncEntries f (hsub.subset hf)
      asyncBound := withinDepth_mono hsub.length_le h.asyncBound }
  | _ => simp [Instr.layer] at hi

theorem hostEffect_inv (he : HostEffect s t) (h : s.Inv) : t.Inv := by
  cases he with
  | waits => exact h
  | retriesSend _ _ _ _ he | retriesSyncReq _ _ _ _ _ he => exact effect_inv (.inl rfl) he h
  | issues _ _ _ _ _ hd he => exact effect_inv (.inl (decodeHost_layer hd)) he (dropOperation_inv h)
  | refused | passesNothing => exact refuse_inv _ (dropOperation_inv h)
  | passes => exact pushOperation_inv _ (answer_inv _ (dropOperation_inv h))

/-- The instruction of a label is one of the label layer (R80). -/
theorem label_instr_layer (l : Label) : l.instr.layer = .label := by
  cases l <;> rfl

theorem moveEffect_inv {m : Move} (he : MoveEffect s m t) (h : s.Inv) : t.Inv := by
  cases he with
  | host k _ he => exact hostEffect_inv he (actAs_inv k h)
  | agent l _ he => exact effect_inv (.inr (label_instr_layer l)) he (actAs_inv _ h)
  | transport x => exact transportInput_inv x h
  | reset => exact resetEngine_inv h

end

/-- Settles O46: every move of the schedule keeps the invariant. -/
theorem everyStepKeepsInvariant : Obligations.EveryStepKeepsInvariant := by
  intro s t h hstep
  obtain ⟨-, rfl⟩ | ⟨m, ms, -, he⟩ := step_cases hstep
  · exact h
  · exact moveEffect_inv he (scheduled_inv ms h)

/-- Settles O45: the open queue depth is at least 1, and every queue and buffer is empty. -/
theorem invariantHoldsAtReset : Obligations.InvariantHoldsAtReset where
  legal := by simp [State.reset, Config.default, Config.legal]
  txPhase := rfl
  rxPhase := rfl
  txqBound := Nat.zero_le _
  syncEntries := by simp [State.reset]
  asyncEntries := by simp [State.reset]
  syncBound := rfl
  asyncBound := rfl
  waiters := by simp [State.reset]

end Sys2Proof.Machine
end

section
/-! PROOFS. What the move of a host caller and the steps of the agents can write, one frame lemma each, and the
statements about single fields that follow: the parameters, SEQ, RUN, EVLOG and the callers. -/

namespace Sys2Proof.Machine

section
variable {s t : State}

/-! ### The callers -/

/-- From `cs` to `cs'` only caller `k` can have changed (R306). -/
def OthersKept (k : Nat) (cs cs' : List Caller) : Prop :=
  cs'.length = cs.length ∧ ∀ j, j ≠ k → cs'[j]? = cs[j]?

theorem OthersKept.refl (k : Nat) (cs : List Caller) : OthersKept k cs cs := ⟨rfl, fun _ _ => rfl⟩

theorem OthersKept.trans {k : Nat} {cs cs' cs'' : List Caller} (h : OthersKept k cs cs') (h' : OthersKept k cs' cs'') :
    OthersKept k cs cs'' :=
  ⟨h'.1.trans h.1, fun j hj => (h'.2 j hj).trans (h.2 j hj)⟩

theorem othersKept_modify (k : Nat) (cs : List Caller) (g : Caller → Caller) : OthersKept k cs (cs.modify k g) :=
  ⟨List.length_modify _ _ _, fun _ hj => List.getElem?_modify_ne _ _ hj.symm⟩

/-! ### Host callers -/

/-- A host operation writes TXQ, DRAIN, RUN, its own caller and what the model keeps beside the engine (R34). -/
theorem effect_host_frame {i : Instr} (hi : i.layer = .host) (he : Effect i s t) :
    ∃ q d r cs tr m rs, OthersKept s.actor s.callers cs ∧
      t = { s with txq := q, drain := d, run := r, callers := cs, trace := tr, refusal := m, results := rs } := by
  cases he with
  | hold | cksum | encode | encodeTooLong | decodeLength | decodeChecksum | decodeValid | tick | start | reserved =>
    exact ⟨_, _, _, _, _, _, _, .refl _ _, rfl⟩
  | send | sendHolds | syncReq | syncReqHolds =>
    exact ⟨_, _, _, _, _, _, _, othersKept_modify _ _ _, rfl⟩
  | _ => simp [Instr.layer] at hi

/-- A host caller's move writes no more than a host operation does. -/
theorem hostEffect_frame (he : HostEffect s t) :
    ∃ q d r cs tr m rs, OthersKept s.actor s.callers cs ∧
      t = { s with txq := q, drain := d, run := r, callers := cs, trace := tr, refusal := m, results := rs } := by
  cases he with
  | waits => exact ⟨_, _, _, _, _, _, _, .refl _ _, rfl⟩
  | retriesSend _ _ _ _ he | retriesSyncReq _ _ _ _ _ he => exact effect_host_frame rfl he
  | issues _ _ _ _ _ hd he =>
    obtain ⟨q, d, r, cs, tr, m, rs, hcs, rfl⟩ := effect_host_frame (decodeHost_layer hd) he
    exact ⟨q, d, r, cs, tr, m, rs, (othersKept_modify _ _ _).trans hcs, rfl⟩
  | refused | passesNothing => exact ⟨_, _, _, _, _, _, _, othersKept_modify _ _ _, rfl⟩
  | passes =>
    exact ⟨_, _, _, _, _, _, _, (othersKept_modify _ _ _).trans (othersKept_modify _ _ _), rfl⟩

/-- Of the host operations only START writes RUN (R28, R260). -/
theorem effect_host_run {i : Instr} (hi : i.layer = .host) (he : Effect i s t) :
    t.run = s.run ∨ i = .start ∧ t = answer [] s.startRun := by
  cases he with
  | hold | cksum | encode | encodeTooLong | decodeLength | decodeChecksum | decodeValid | send | sendHolds | syncReq
    | syncReqHolds | tick | reserved => exact .inl rfl
  | start => exact .inr ⟨rfl, rfl⟩
  | _ => simp [Instr.layer] at hi

/-- The move of a host caller writes RUN only when the caller is idle and issues START. -/
theorem hostEffect_run (he : HostEffect s t) :
    t.run = s.run ∨ ∃ bs ops, s.callers[s.actor]? = some ⟨.bytes bs :: ops, .idle⟩ ∧ decodeHost bs = .ok .start ∧
      t = answer [] (dropOperation s).startRun := by
  cases he with
  | waits | refused | passes | passesNothing => exact .inl rfl
  | retriesSend _ _ _ _ he | retriesSyncReq _ _ _ _ _ he =>
    exact .inl ((effect_host_run rfl he).resolve_right fun h => nomatch h.1)
  | issues bs ops i _ hc hd he =>
    obtain hr | ⟨rfl, rfl⟩ := effect_host_run (decodeHost_layer hd) he
    · exact .inl hr
    · exact .inr ⟨bs, ops, hc, hd, rfl⟩

/-! ### Agents -/

/-- TX_STEP_TAKE writes TXQ and the worker's registers (R132). -/
theorem effect_take_frame (he : Effect .txStepTake s t) :
    ∃ q c p, t = { s with txq := q, txcur := c, phaseTxw := p } := by
  cases he <;> exact ⟨_, _, _, rfl⟩

/-- TX_STEP_WRITE writes SEQ, the worker's registers and TXS, and adds at most an error event to EVLOG (R134). -/
theorem effect_write_frame (he : Effect .txStepWrite s t) :
    ∃ q c p x as d tr ev, (ev = s.evlog ∨ ∃ b, ev = s.evlog ++ [⟨.error, b⟩]) ∧
      t = { s with
        seq := q, txcur := c, phaseTxw := p, txs := x, txAnswers := as, draws := d, trace := tr, evlog := ev } := by
  cases he with
  | hold => exact ⟨_, _, _, _, _, _, _, _, .inl rfl, rfl⟩
  | write f a as =>
    obtain ⟨-, h⟩ | ⟨-, h⟩ | ⟨n, -, -, -, h⟩ := writeFrame_cases f a { s with txAnswers := as } <;> rw [h]
    · exact ⟨_, _, _, _, _, _, _, _, .inl rfl, rfl⟩
    · exact ⟨_, _, _, _, _, _, _, _, .inr ⟨_, rfl⟩, rfl⟩
    · exact ⟨_, _, _, _, _, _, _, _, .inr ⟨_, rfl⟩, rfl⟩

/-- RX_STEP writes the framer's registers, RXS, the two buffers and the trace (R160 to R167). -/
theorem effect_rx_frame (he : Effect .rxStep s t) :
    ∃ as x p ab sb asb tr,
      t = { s with
        rxAnswers := as, rxs := x, phaseRxf := p, abuf := ab, syncbuf := sb, asyncbuf := asb, trace := tr } := by
  cases he with
  | hold | readError => exact ⟨_, _, _, _, _, _, _, rfl⟩
  | read j as =>
    obtain ⟨p, ab, sb, asb, tr, h⟩ := absorb_frame (bytesRead j s) { s with rxAnswers := as }
    exact ⟨_, _, p, ab, sb, asb, tr, h⟩

/-- SYNC_POLL writes SYNCBUF, its own caller, the trace and the results (R203). -/
theorem effect_poll_frame (he : Effect .syncPoll s t) :
    ∃ sb d cs tr rs, OthersKept s.actor s.callers cs ∧
      t = { s with syncbuf := sb, draws := d, callers := cs, trace := tr, results := rs } := by
  cases he with
  | hold => exact ⟨_, _, _, _, _, .refl _ _, rfl⟩
  | pollHit | pollTimeout | pollCounts => exact ⟨_, _, _, _, _, othersKept_modify _ _ _, rfl⟩

/-- CLASSIFY's event, if any, carries the frame under one of the two topics of the dispatcher (R233). -/
theorem eventOf_cases (k : Nat) (e : Frame) :
    eventOf k e = none ∨ eventOf k e = some ⟨.collision, e⟩ ∨ eventOf k e = some ⟨.sensordata, e⟩ := by
  unfold eventOf
  cases shapeOf k e <;> simp

/-- ASYNC_STEP writes ASYNCBUF, DRAIN and the trace, and adds at most one event of a buffered frame to EVLOG (R232,
R233). -/
theorem effect_async_frame (he : Effect .asyncStep s t) :
    ∃ asb d tr ev,
      (ev = s.evlog ∨ ∃ e ∈ s.asyncbuf, ev = s.evlog ++ [⟨.collision, e⟩] ∨ ev = s.evlog ++ [⟨.sensordata, e⟩]) ∧
      t = { s with asyncbuf := asb, drain := d, trace := tr, evlog := ev } := by
  cases he with
  | hold | drainEnds => exact ⟨_, _, _, _, .inl rfl, rfl⟩
  | dispatch l e _ _ _ hl =>
    have hmem : e ∈ s.asyncbuf := by simp [hl]
    rw [classify_eq]
    refine ⟨_, _, _, _, ?_, rfl⟩
    obtain h | h | h := eventOf_cases s.cfg.collTagIndex e <;> simp only [h, Option.toList]
    · exact .inl (List.append_nil _)
    · exact .inr ⟨e, hmem, .inl rfl⟩
    · exact .inr ⟨e, hmem, .inr rfl⟩

/-- No agent's step writes the parameters or RUN (R28, R32). -/
theorem effect_label_cfg_run {l : Label} (he : Effect l.instr s t) : t.cfg = s.cfg ∧ t.run = s.run := by
  cases l with
  | txTake => obtain ⟨_, _, _, rfl⟩ := effect_take_frame he; exact ⟨rfl, rfl⟩
  | txWrite => obtain ⟨_, _, _, _, _, _, _, _, -, rfl⟩ := effect_write_frame he; exact ⟨rfl, rfl⟩
  | rx => obtain ⟨_, _, _, _, _, _, _, rfl⟩ := effect_rx_frame he; exact ⟨rfl, rfl⟩
  | poll k => obtain ⟨_, _, _, _, _, -, rfl⟩ := effect_poll_frame he; exact ⟨rfl, rfl⟩
  | async => obtain ⟨_, _, _, _, -, rfl⟩ := effect_async_frame he; exact ⟨rfl, rfl⟩

/-- Of the agents' steps only TX_STEP_WRITE writes SEQ (R21). -/
theorem effect_label_seq {l : Label} (hl : l ≠ .txWrite) (he : Effect l.instr s t) : t.seq = s.seq := by
  cases l with
  | txTake => obtain ⟨_, _, _, rfl⟩ := effect_take_frame he; rfl
  | txWrite => exact absurd rfl hl
  | rx => obtain ⟨_, _, _, _, _, _, _, rfl⟩ := effect_rx_frame he; rfl
  | poll k => obtain ⟨_, _, _, _, _, -, rfl⟩ := effect_poll_frame he; rfl
  | async => obtain ⟨_, _, _, _, -, rfl⟩ := effect_async_frame he; rfl

/-- A worker's step touches no caller, a poll at most its own (R29, R306). -/
theorem effect_label_callers {l : Label} (he : Effect l.instr s t) :
    t.callers = s.callers ∨ (∃ k, l = .poll k) ∧ OthersKept s.actor s.callers t.callers := by
  cases l with
  | txTake => obtain ⟨_, _, _, rfl⟩ := effect_take_frame he; exact .inl rfl
  | txWrite => obtain ⟨_, _, _, _, _, _, _, _, -, rfl⟩ := effect_write_frame he; exact .inl rfl
  | rx => obtain ⟨_, _, _, _, _, _, _, rfl⟩ := effect_rx_frame he; exact .inl rfl
  | poll k => obtain ⟨_, _, _, _, _, hcs, rfl⟩ := effect_poll_frame he; exact .inr ⟨⟨k, rfl⟩, hcs⟩
  | async => obtain ⟨_, _, _, _, -, rfl⟩ := effect_async_frame he; exact .inl rfl

/-! ### Moves -/

/-- An input of the transport writes its three queues only (R83). -/
theorem transportInput_frame (x : TransportInput) (s : State) :
    ∃ b ra wa, transportInput x s = { s with rxs := b, rxAnswers := ra, txAnswers := wa } := by
  cases x <;> exact ⟨_, _, _, rfl⟩

theorem moveEffect_cfg {m : Move} (he : MoveEffect s m t) : t.cfg = s.cfg := by
  cases he with
  | host k _ he => obtain ⟨_, _, _, _, _, _, _, -, rfl⟩ := hostEffect_frame he; rfl
  | agent l _ he => exact (effect_label_cfg_run he).1
  | transport x => obtain ⟨_, _, _, h⟩ := transportInput_frame x s; rw [h]
  | reset => rfl

/-- RUN changes, Reset apart, only by an idle caller's START, which returns the empty result (R28, R260). -/
theorem moveEffect_run {m : Move} (hm : m ≠ .reset) (he : MoveEffect s m t) :
    t.run = s.run ∨ t.run = true ∧ ∃ k bs ops, m = .host k ∧ s.callers[k]? = some ⟨.bytes bs :: ops, .idle⟩ ∧
      decodeHost bs = .ok .start ∧ t.results = s.results ++ [⟨k, []⟩] := by
  cases he with
  | host k _ he =>
    obtain h | ⟨bs, ops, hc, hd, rfl⟩ := hostEffect_run he
    · exact .inl h
    · exact .inr ⟨rfl, k, bs, ops, rfl, hc, hd, rfl⟩
  | agent l _ he => exact .inl (effect_label_cfg_run he).2
  | transport x => obtain ⟨_, _, _, h⟩ := transportInput_frame x s; exact .inl (by rw [h])
  | reset => exact absurd rfl hm

/-- SEQ stays in every move that is neither a write nor Reset (R21). -/
theorem moveEffect_seq {m : Move} (hm : m ≠ .reset) (hw : m ≠ .agent .txWrite) (he : MoveEffect s m t) :
    t.seq = s.seq := by
  cases he with
  | host k _ he => obtain ⟨_, _, _, _, _, _, _, -, rfl⟩ := hostEffect_frame he; rfl
  | agent l _ he => exact effect_label_seq (s := actAs (l.actor s) s) (fun hl => hw (congrArg _ hl)) he
  | transport x => obtain ⟨_, _, _, h⟩ := transportInput_frame x s; rw [h]
  | reset => exact absurd rfl hm

/-- EVLOG grows by an error in a write or by an event of a buffered frame in a dispatch, and otherwise stays (R30). -/
theorem moveEffect_evlog {m : Move} (hm : m ≠ .reset) (he : MoveEffect s m t) :
    t.evlog = s.evlog ∨
    (∃ p, m = .agent .txWrite ∧ t.evlog = s.evlog ++ [⟨.error, p⟩]) ∨
    (∃ e, m = .agent .async ∧ e ∈ s.asyncbuf ∧
      (t.evlog = s.evlog ++ [⟨.collision, e⟩] ∨ t.evlog = s.evlog ++ [⟨.sensordata, e⟩])) := by
  cases he with
  | host k _ he => obtain ⟨_, _, _, _, _, _, _, -, rfl⟩ := hostEffect_frame he; exact .inl rfl
  | agent l _ he =>
    cases l with
    | txTake => obtain ⟨_, _, _, rfl⟩ := effect_take_frame he; exact .inl rfl
    | rx => obtain ⟨_, _, _, _, _, _, _, rfl⟩ := effect_rx_frame he; exact .inl rfl
    | poll k => obtain ⟨_, _, _, _, _, -, rfl⟩ := effect_poll_frame he; exact .inl rfl
    | txWrite =>
      obtain ⟨_, _, _, _, _, _, _, _, h | ⟨b, h⟩, rfl⟩ := effect_write_frame he
      · exact .inl h
      · exact .inr (.inl ⟨b, rfl, h⟩)
    | async =>
      obtain ⟨_, _, _, _, h | ⟨e, hmem, h⟩, rfl⟩ := effect_async_frame he
      · exact .inl h
      · exact .inr (.inr ⟨e, rfl, hmem, h⟩)
  | transport x => obtain ⟨_, _, _, h⟩ := transportInput_frame x s; exact .inl (by rw [h])
  | reset => exact absurd rfl hm

/-- A move that is not Reset touches at most the caller whose move or poll it is (R306). -/
theorem moveEffect_callers {m : Move} (hm : m ≠ .reset) (he : MoveEffect s m t) :
    t.callers = s.callers ∨ ∃ k, (m = .host k ∨ m = .agent (.poll k)) ∧ OthersKept k s.callers t.callers := by
  cases he with
  | host k _ he =>
    obtain ⟨_, _, _, _, _, _, _, hcs, rfl⟩ := hostEffect_frame he
    exact .inr ⟨k, .inl rfl, hcs⟩
  | agent l _ he =>
    obtain h | ⟨⟨k, rfl⟩, hcs⟩ := effect_label_callers he
    · exact .inl h
    · exact .inr ⟨k, .inr rfl, hcs⟩
  | transport x => obtain ⟨_, _, _, h⟩ := transportInput_frame x s; exact .inl (by rw [h])
  | reset => exact absurd rfl hm

/-! ### RUN and the workers -/

/-- While RUN = 0 every instruction of the workers, whole or a part for one frame, holds: only host operations and polls
do not need RUN (R28). -/
theorem exec_worker_of_run_false {i : Instr} (hi : i.layer ≠ .host) (hp : i ≠ .syncPoll) (hr : s.run = false) :
    exec i s = .next s := by
  obtain ⟨t, ht, he⟩ := exec_effect i s
  rw [ht]
  cases he with
  | hold => rfl
  | cksum | encode | encodeTooLong | decodeLength | decodeChecksum | decodeValid | send | sendHolds | syncReq
    | syncReqHolds | tick | start | reserved => exact absurd rfl hi
  | pollHit | pollTimeout | pollCounts => exact absurd rfl hp
  | _ => simp_all

/-! ### Full writes -/

theorem nextIsFullWrite_of_head?_ne (h : s.sched.head? ≠ some (.agent .txWrite)) : nextIsFullWrite s = false := by
  unfold nextIsFullWrite
  split
  · simp_all
  · rfl

/-- A write that does not find its conditions is no full write. -/
theorem nextIsFullWrite_of_disabled (h : enables .txStepWrite s = false) : nextIsFullWrite s = false := by
  unfold nextIsFullWrite
  split
  · simp_all [enables]
  · rfl

/-- An enabled write is full exactly when the answer counts the whole frame (R133). -/
theorem nextIsFullWrite_of_answer {ms : List Move} {f : Frame} {a : WriteAnswer} {as : List WriteAnswer}
    (hs : s.sched = .agent .txWrite :: ms) (hr : s.run = true) (hp : s.phaseTxw = .busy) (hf : s.txcur = some f)
    (ha : s.txAnswers = a :: as) : nextIsFullWrite s = (acceptedCount a f == some f.length) := by
  simp [nextIsFullWrite, hs, hf, ha, (writeReady_iff s).mpr ⟨hr, hp⟩]

/-- The step of the transmit worker's write advances SEQ exactly when the write is full (R64, R134). -/
theorem effect_write_seq {ms : List Move} {k : Nat} (hs : s.sched = .agent .txWrite :: ms)
    (he : Effect .txStepWrite (actAs k (scheduled ms s)) t) :
    t.seq = if nextIsFullWrite s then s.seq + 1 else s.seq := by
  cases he with
  | hold _ _ hdis =>
    have hnot : nextIsFullWrite s = false := nextIsFullWrite_of_disabled hdis
    simp [hnot]
  | write f a as _ hr hp hf ha =>
    rw [nextIsFullWrite_of_answer hs hr hp hf ha]
    obtain ⟨hn, h⟩ | ⟨rfl, h⟩ | ⟨n, hlt, -, hn, h⟩ :=
      writeFrame_cases f a { actAs k (scheduled ms s) with txAnswers := as } <;> rw [h]
    · simp [hn]
    · simp [acceptedCount]
    · simp [hn, hlt.ne]

end

/-! ### The statements -/

/-- Settles O49: the workers' effects need RUN, and START is the one host operation that writes it. -/
theorem runGatesTheWorkers : Obligations.RunGatesTheWorkers := by
  refine ⟨fun s i hr hi => ?_, fun s t hstep hm hr => ?_, fun s t hstep hr ht => ?_⟩
  · simp only [List.mem_cons, List.not_mem_nil, or_false] at hi
    obtain (rfl | rfl | rfl | rfl) | ⟨f, rfl | rfl | rfl | rfl | rfl | rfl | rfl⟩ := hi <;>
      exact exec_worker_of_run_false nofun nofun hr
  · obtain ⟨-, rfl⟩ | ⟨m, ms, hs, he⟩ := step_cases hstep
    · exact hr
    · obtain h | ⟨h, -⟩ := moveEffect_run (by simpa [hs] using hm) he
      · exact h.trans hr
      · exact h
  · obtain ⟨-, rfl⟩ | ⟨m, ms, hs, he⟩ := step_cases hstep
    · simp [hr] at ht
    · have hm : m ≠ .reset := by
        rintro rfl
        cases he
        exact Bool.noConfusion ht
      obtain h | ⟨-, k, bs, ops, rfl, hc, hd, hres⟩ := moveEffect_run hm he
      · exact absurd (h.symm.trans ht) (by simp [hr])
      · exact ⟨k, ms, bs, ops, hs, hc, hd, hres⟩

/-- Settles O50: only the write reaches SEQ, and its four outcomes say when it does. -/
theorem onlyFullWritesAdvanceSeq : Obligations.OnlyFullWritesAdvanceSeq := by
  intro s t hstep hm
  obtain ⟨hs, rfl⟩ | ⟨m, ms, hs, he⟩ := step_cases hstep
  · simp [nextIsFullWrite, hs]
  · by_cases hw : m = .agent .txWrite
    · subst hw
      cases he with
      | agent _ _ he => exact effect_write_seq hs he
    · have hnot : nextIsFullWrite s = false := nextIsFullWrite_of_head?_ne (by simpa [hs] using hw)
      rw [hnot]
      exact moveEffect_seq (s := scheduled ms s) (by simpa [hs] using hm) hw he

/-- Settles O51, by the frame of each move. -/
theorem stepsKeepParameters : Obligations.StepsKeepParameters := by
  intro s t hstep
  obtain ⟨-, rfl⟩ | ⟨m, ms, -, he⟩ := step_cases hstep
  · rfl
  · exact moveEffect_cfg (s := scheduled ms s) he

/-- Settles O52, by the frames of TX_STEP_WRITE and ASYNC_STEP, the only steps that write EVLOG. -/
theorem eventsComeFromWritesAndDispatch : Obligations.EventsComeFromWritesAndDispatch := by
  intro s t hstep hm
  obtain ⟨-, rfl⟩ | ⟨m, ms, hs, he⟩ := step_cases hstep
  · exact .inl rfl
  · simpa [hs] using moveEffect_evlog (by simpa [hs] using hm) he

/-- Settles O55: the one caller a move can touch is the one it names. -/
theorem stepTouchesOnlyItsCaller : Obligations.StepTouchesOnlyItsCaller := by
  intro s t hstep hm
  obtain ⟨-, rfl⟩ | ⟨m, ms, hs, he⟩ := step_cases hstep
  · exact ⟨rfl, fun _ _ _ => rfl⟩
  · obtain h | ⟨k, hk, hlen, hothers⟩ := moveEffect_callers (by simpa [hs] using hm) he
    · rw [h]
      exact ⟨rfl, fun _ _ _ => rfl⟩
    · refine ⟨hlen, fun j hhost hpoll => hothers j ?_⟩
      rintro rfl
      obtain rfl | rfl := hk
      · simp [hs] at hhost
      · simp [hs] at hpoll

end Sys2Proof.Machine
end

section
/-! PROOFS. The access rules of 20_memory.md section 4: a step that is not enabled changes nothing (R62), and a poll
takes from SYNCBUF what it returns (R63). -/

namespace Sys2Proof.Machine

section
variable {s t : State}

/-- Whatever an instruction does other than hold, it does under its enabling condition (R62, R308). -/
theorem effect_enables_or_eq {i : Instr} (he : Effect i s t) : enables i s = true ∨ t = s := by
  cases he with
  | hold => exact .inr rfl
  | cksum | encode | encodeTooLong | decodeLength | decodeChecksum | decodeValid | send | sendHolds | syncReq
    | syncReqHolds | tick | start | reserved => exact .inl rfl
  | take _ _ _ hr hp hq => simp [enables, (takeReady_iff s).mpr ⟨hr, hp⟩, hq]
  | write _ _ _ _ hr hp hf ha | frameTx _ _ _ _ hr hp hf ha =>
    simp [enables, (writeReady_iff s).mpr ⟨hr, hp⟩, hf, ha]
  | readError _ _ hr ha | read _ _ _ hr ha => simp [enables, hr, ha]
  | pollHit _ _ _ _ _ _ _ hc | pollTimeout _ _ _ _ hc | pollCounts _ _ _ _ hc =>
    have hw := pollingWaiter_eq_some.mpr ⟨rfl, _, hc⟩
    simp [enables, hw]
  | drainEnds _ hr hd | dispatch _ _ _ hr hd | collision _ _ hr hd | sample _ _ hr hd | other _ _ hr hd =>
    exact .inl ((drainReady_iff s).mpr ⟨hr, hd⟩)
  | frameRxSync _ _ hr | frameRxAsync _ _ hr | frameRxOther _ _ hr => exact .inl hr

/-- A hit takes the entry it answers with out of SYNCBUF and reorders the rest (R203, R204). -/
theorem pollHit_perm {a b : List Frame} {e : Frame} (hb : s.syncbuf = a ++ e :: b) :
    s.syncbuf.Perm (e :: (pollHit e (a ++ b) s).syncbuf) := by
  have hrest : (pollHit e (a ++ b) s).syncbuf.Perm (a ++ b) := permute_perm _ _
  rw [hb]
  exact List.perm_middle.trans (hrest.symm.cons e)

/-- A poll answers its caller with the entry that leaves SYNCBUF, or leaves SYNCBUF as it is and answers nothing or, on
a timeout, the empty result (R63, R203). -/
theorem effect_poll_syncbuf (he : Effect .syncPoll s t) :
    (∃ e, s.syncbuf.Perm (e :: t.syncbuf) ∧ t.results = s.results ++ [⟨s.actor, 0x00 :: e⟩]) ∨
    (t.syncbuf = s.syncbuf ∧ (t.results = s.results ∨ t.results = s.results ++ [⟨s.actor, [0x07]⟩])) := by
  cases he with
  | hold | pollCounts => exact .inr ⟨rfl, .inl rfl⟩
  | pollHit _ _ _ _ _ e _ _ hb => exact .inl ⟨e, pollHit_perm hb, rfl⟩
  | pollTimeout => exact .inr ⟨rfl, .inr rfl⟩

end

/-- Settles O48: every effect but the hold has its guard as a premise. -/
theorem disabledStepHolds : Obligations.DisabledStepHolds := by
  intro i s hdis
  obtain ⟨t, ht, he⟩ := exec_effect i s
  obtain hen | rfl := effect_enables_or_eq he
  · exact absurd hen (by simp [hdis])
  · exact ht

/-- Settles O27: the step is the poll's effect, with caller `k` acting. -/
theorem pollRemovesWhatItReturns : Obligations.PollRemovesWhatItReturns := by
  intro s t k ms hs hstep
  have he : Effect .syncPoll (actAs k (scheduled ms s)) t := effect_of_exec ((step_eq hs).symm.trans hstep)
  exact effect_poll_syncbuf he

end Sys2Proof.Machine
end

section
/-! PROOFS. The encodings of 30_encoding.md: what the decoder of each layer answers, and that it gives back every
well-formed instruction from its bytes. -/

namespace Sys2Proof

/-! ### Host operations -/

theorem isReserved_iff (op : Byte) :
    isReserved op = true ↔ op.toNat = 0 ∨ (8 ≤ op.toNat ∧ op.toNat ≤ 0x7F) ∨ 0x85 ≤ op.toNat := by
  simp [isReserved, or_assoc]

theorem isInternal_iff (op : Byte) : isInternal op = true ↔ 0x80 ≤ op.toNat ∧ op.toNat ≤ 0x84 := by
  simp [isInternal]

/-- A reserved code is none of the internal codes (R80). -/
theorem isInternal_of_isReserved {op : Byte} (h : isReserved op = true) : isInternal op = false := by
  rw [Bool.eq_false_iff, ne_eq, isInternal_iff]
  rw [isReserved_iff] at h
  omega

/-- A reserved code has no row of its own in R78, so it is one byte long. -/
theorem opLength_reserved {op : Byte} (bs : Bytes) (h : isReserved op = true) : opLength (op :: bs) = 1 := by
  rw [isReserved_iff] at h
  have hop : byteAt (op :: bs) 0 = op := rfl
  unfold opLength
  rw [hop]
  split <;> omega

theorem hostOperands_reserved {op : Byte} (bs : Bytes) (h : isReserved op = true) :
    hostOperands op bs = .reserved op := by
  rw [isReserved_iff] at h
  unfold hostOperands
  split
  case h_8 => rfl
  all_goals omega

/-- An operation that is all there, and no internal step's code, decodes to its operands (R78). -/
theorem decodeHost_whole {op : Byte} {bs : Bytes} (hi : isInternal op = false)
    (hl : opLength (op :: bs) ≤ (op :: bs).length) : decodeHost (op :: bs) = .ok (hostOperands op (op :: bs)) := by
  simp only [decodeHost, hi, Nat.not_lt.mpr hl, Bool.false_eq_true, if_false]

/-- A reserved code decodes as such, whatever bytes follow it (R81; log 10). -/
theorem decodeHost_reserved {op : Byte} (bs : Bytes) (h : isReserved op = true) :
    decodeHost (op :: bs) = .ok (.reserved op) := by
  have hl : opLength (op :: bs) ≤ (op :: bs).length := by simp [opLength_reserved bs h]
  rw [decodeHost_whole (isInternal_of_isReserved h) hl, hostOperands_reserved _ h]

theorem decodeHost_internal {op : Byte} (bs : Bytes) (h : isInternal op = true) :
    decodeHost (op :: bs) = .error (.internalCode op) := by
  simp only [decodeHost, h, if_true]

theorem decodeHost_truncated {op : Byte} {bs : Bytes} (hi : isInternal op = false)
    (hl : (op :: bs).length < opLength (op :: bs)) : decodeHost (op :: bs) = .error (.truncated op) := by
  simp only [decodeHost, hi, hl, Bool.false_eq_true, if_false, if_true]

/-- The length rule gives the end of every well-formed host operation (R78). -/
theorem opLength_encode {c : Config} {i : Instr} (h : i.wellFormed c = true) (hi : i.layer = .host) :
    opLength (encode i) = (encode i).length := by
  cases i with
  | cksum b => exact Laws.OpLength.cksum b c h hi
  | encode dev cmd body => exact Laws.OpLength.encode dev cmd body c h hi
  | decode hd body chk => exact Laws.OpLength.decode hd body chk c h hi
  | send f => exact Laws.OpLength.send f c h hi
  | syncReq w => exact Laws.OpLength.syncReq w c h hi
  | tick | start => rfl
  | reserved op => exact Laws.OpLength.reserved op c h hi
  | _ => simp [Instr.layer] at hi

theorem isInternal_encode {c : Config} {i : Instr} (h : i.wellFormed c = true) (hi : i.layer = .host) :
    isInternal (byteAt (encode i) 0) = false := by
  cases i with
  | cksum | encode | decode | send | syncReq | tick | start => rfl
  | reserved op => exact isInternal_of_isReserved h
  | _ => simp [Instr.layer] at hi

theorem encode_eq_cons (i : Instr) (hi : i.layer = .host) :
    ∃ bs, encode i = byteAt (encode i) 0 :: bs := by
  cases i with
  | cksum | encode | decode | send | syncReq | tick | start | reserved => exact ⟨_, rfl⟩
  | _ => simp [Instr.layer] at hi

/-- A whole frame read back after the code, by the count in its own length byte (R78, R82). -/
theorem take_frame {op : Byte} {f : Frame} (h : lengthMatches f = true) :
    ((op :: f).drop 1).take ((byteAt (op :: f) 6).toNat + 7) = f := by
  have hlen : f.length = (byteAt (op :: f) 6).toNat + 7 := beq_iff_eq.mp h
  exact List.take_of_length_le hlen.le

/-- DECODE's three operands read back from behind its count (R78, R105). -/
theorem hostOperands_decode {hd body : Bytes} (chk : Byte) (hh : hd.length = 6) (hb : body.length ≤ 255) :
    hostOperands 0x03 (encode (.decode hd body chk)) = .decode hd body chk := by
  have hcount : (byteAt (encode (.decode hd body chk)) 1).toNat = body.length := byteOfNat_toNat hb
  have hpos : 8 + body.length = (encode (.decode hd body chk)).length - 1 := by
    simp [encode, hh]
    omega
  have hlast : byteAt (encode (.decode hd body chk)) (8 + body.length) = chk := by
    rw [hpos]
    exact chkByte_append_singleton _ chk
  have hhead : ((encode (.decode hd body chk)).drop 2).take 6 = hd := by simp [encode, hh]
  have hbody : ((encode (.decode hd body chk)).drop 8).take body.length = body := by simp [encode, hh]
  simp only [hostOperands, BitVec.reduceToNat, hcount, hlast, hhead, hbody]

theorem hostOperands_encode {c : Config} {i : Instr} (h : i.wellFormed c = true) (hi : i.layer = .host) :
    hostOperands (byteAt (encode i) 0) (encode i) = i := by
  cases i with
  | cksum b =>
    have hb : b.length ≤ 65535 := of_decide_eq_true h
    simp [encode, hostOperands, byteAt, beCount_byteOfNat hb]
  | encode dev cmd body =>
    have hb : body.length ≤ 255 := of_decide_eq_true h
    simp [encode, hostOperands, byteAt, byteOfNat_toNat hb]
  | decode hd body chk =>
    simp only [Instr.wellFormed, Bool.and_eq_true, beq_iff_eq, decide_eq_true_eq] at h
    exact hostOperands_decode chk h.1 h.2
  | send f => exact congrArg Instr.send (take_frame h)
  | syncReq w => exact congrArg Instr.syncReq (take_frame h)
  | tick | start => rfl
  | reserved op => exact hostOperands_reserved _ h
  | _ => simp [Instr.layer] at hi

/-- The host decoder gives back every well-formed host operation (R78, R80). -/
theorem decodeHost_encode {c : Config} {i : Instr} (h : i.wellFormed c = true) (hi : i.layer = .host) :
    decodeHost (encode i) = .ok i := by
  obtain ⟨bs, hbs⟩ := encode_eq_cons i hi
  have hlen := opLength_encode h hi
  have hops := hostOperands_encode h hi
  rw [hbs] at hlen hops ⊢
  rw [decodeHost_whole (isInternal_encode h hi) hlen.le]
  exact congrArg Except.ok hops

/-! ### Labels, frames and shapes -/

/-- A label's code decodes to the step it labels (R80). -/
theorem decodeLabel_encode {i : Instr} (hi : i.layer = .label) : decodeLabel (encode i) = .ok i := by
  cases i with
  | txStepTake | txStepWrite | rxStep | syncPoll | asyncStep => rfl
  | _ => simp [Instr.layer] at hi

/-- What a frame decodes to on the transmit side (R70). -/
theorem decodeWireTx_eq_ok {f : Frame} {i : Instr} :
    decodeWireTx f = .ok i ↔
      (lengthMatches f = true ∧ byteAt f 0 = startByte ∧ marker f = startByte) ∧ i = .frameTx f := by
  by_cases hl : lengthMatches f = true
  · by_cases hs : byteAt f 0 = startByte ∧ marker f = startByte
    · simp only [decodeWireTx, hl, hs, if_true, and_self, true_and, Except.ok.injEq, eq_comm]
    · simp only [decodeWireTx, hl, hs, if_true, if_false, reduceCtorEq, true_and, false_and]
  · simp only [decodeWireTx, hl, Bool.false_eq_true, if_false, reduceCtorEq, false_and]

/-- What a frame decodes to on the receive side: a whole one to its class (R74). -/
theorem decodeWireRx_eq_ok {f : Frame} {i : Instr} :
    decodeWireRx f = .ok i ↔ lengthMatches f = true ∧ i = rxInstr f := by
  by_cases hl : lengthMatches f = true
  · simp only [decodeWireRx, hl, if_true, true_and, Except.ok.injEq, eq_comm]
  · simp only [decodeWireRx, hl, Bool.false_eq_true, if_false, reduceCtorEq, false_and]

theorem rxInstr_of_wellFormed {c : Config} {i : Instr} (h : i.wellFormed c = true) (hi : i.layer = .wireRx) :
    lengthMatches (encode i) = true ∧ i = rxInstr (encode i) := by
  cases i with
  | frameRxSync f | frameRxAsync f | frameRxOther f =>
    simp only [Instr.wellFormed, Bool.and_eq_true, beq_iff_eq] at h
    obtain ⟨hlen, hclass⟩ := h
    exact ⟨hlen, by simp only [encode, rxInstr, hclass]⟩
  | _ => simp [Instr.layer] at hi

theorem shapeInstr_encode {c : Config} {i : Instr} (h : i.wellFormed c = true) (hi : i.layer = .shape) :
    shapeInstr c.collTagIndex (encode i) = i := by
  cases i with
  | asyncCollision e | asyncSample e | asyncOther e =>
    have hshape := beq_iff_eq.mp h
    simp only [encode, shapeInstr, hshape]
  | _ => simp [Instr.layer] at hi

theorem decodeWireTx_encode {c : Config} {i : Instr} (h : i.wellFormed c = true) (hi : i.layer = .wireTx) :
    decodeWireTx (encode i) = .ok i := by
  cases i with
  | frameTx f =>
    simp only [Instr.wellFormed, Bool.and_eq_true, beq_iff_eq, and_assoc] at h
    exact decodeWireTx_eq_ok.mpr ⟨h, rfl⟩
  | _ => simp [Instr.layer] at hi

/-- Settles O41: one round trip for each layer. -/
theorem decodeOfEncodeIsIdentity : Obligations.DecodeOfEncodeIsIdentity := by
  intro c i h
  cases hi : i.layer with
  | host => exact decodeHost_encode h hi
  | label => exact decodeLabel_encode hi
  | wireTx => exact decodeWireTx_encode h hi
  | wireRx => exact decodeWireRx_eq_ok.mpr (rxInstr_of_wellFormed h hi)
  | shape => exact congrArg Except.ok (shapeInstr_encode h hi)

/-- Settles O42, by running the decoders on the given bytes. -/
theorem writtenOutWordsDecode : Obligations.WrittenOutWordsDecode :=
  ⟨rfl, rfl, rfl, rfl, rfl, rfl, rfl, rfl⟩

end Sys2Proof
end

section
/-! PROOFS. How a schedule's move runs an instruction (30_encoding.md sections 1 to 3): the operation of an idle caller,
its refusal, the two halves of a pseudo-operation, an agent's labelled step, and the frame classes inside the steps. -/

namespace Sys2Proof.Machine

section
variable {s t : State}

/-! ### The caller's next operation -/

/-- Moving past an operation leaves the acting caller with the rest of its program. -/
theorem dropOperation_eq {o : HostOp} {ops : List HostOp} {st : CallerStatus}
    (h : s.callers[s.actor]? = some ⟨o :: ops, st⟩) :
    dropOperation s = { s with callers := s.callers.set s.actor ⟨ops, st⟩ } := by
  unfold dropOperation
  rw [modify_set _ _ _ _ h]
  rfl

/-- The operation pushed stands before the rest of the acting caller's program. -/
theorem pushOperation_eq {o : HostOp} {ops : List HostOp} {st : CallerStatus}
    (h : s.callers[s.actor]? = some ⟨ops, st⟩) :
    pushOperation o s = { s with callers := s.callers.set s.actor ⟨o :: ops, st⟩ } := by
  unfold pushOperation
  rw [modify_set _ _ _ _ h]

/-- The step of an idle caller whose next operation is a byte string issues it (R306). -/
theorem step_host_bytes {k : Nat} {ms : List Move} {bs : Bytes} {ops : List HostOp} (hs : s.sched = .host k :: ms)
    (hc : s.callers[k]? = some ⟨.bytes bs :: ops, .idle⟩) : step s = issue bs (actAs k (scheduled ms s)) :=
  (step_eq hs).trans (hostMove_idle (s := actAs k (scheduled ms s)) hc)

/-- The step of an idle caller whose next operation is a pseudo-operation issues its first half (R84). -/
theorem step_host_pseudo {k : Nat} {ms : List Move} {p : Pseudo} {dev cmd : Byte} {body : Bytes} {ops : List HostOp}
    (hs : s.sched = .host k :: ms) (hc : s.callers[k]? = some ⟨.pseudo p dev cmd body :: ops, .idle⟩) :
    step s = issuePseudo p dev cmd body (actAs k (scheduled ms s)) :=
  (step_eq hs).trans (hostMove_pseudo (s := actAs k (scheduled ms s)) hc)

theorem issue_of_ok {bs : Bytes} {i : Instr} (h : decodeHost bs = .ok i) : issue bs s = exec i (dropOperation s) := by
  simp only [issue, h]

theorem issue_of_error {bs : Bytes} {e : DecodeError} (h : decodeHost bs = .error e) :
    issue bs s = .next (refuse (.illegalOp bs.head?) (dropOperation s)) := by
  simp only [issue, h, opByte]

/-- A reserved code, an internal code and a truncated operation are refused in the same way (R81, R287). -/
theorem issue_refused {op : Byte} {bs : Bytes}
    (h : isReserved op = true ∨ isInternal op = true ∨ (op :: bs).length < opLength (op :: bs)) :
    issue (op :: bs) s = .next (refuse (.illegalOp (some op)) (dropOperation s)) := by
  by_cases hi : isInternal op = true
  · exact issue_of_error (decodeHost_internal bs hi)
  · have hni : isInternal op = false := Bool.eq_false_iff.mpr hi
    obtain hr | hi' | hl := h
    · exact issue_of_ok (decodeHost_reserved bs hr)
    · exact absurd hi' hi
    · exact issue_of_error (decodeHost_truncated hni hl)

/-! ### The two halves of a pseudo-operation and the moves between them -/

/-- No agent's step writes the schedule. -/
theorem effect_label_sched {l : Label} (he : Effect l.instr s t) : t.sched = s.sched := by
  cases l with
  | txTake => obtain ⟨_, _, _, rfl⟩ := effect_take_frame he; rfl
  | txWrite => obtain ⟨_, _, _, _, _, _, _, _, -, rfl⟩ := effect_write_frame he; rfl
  | rx => obtain ⟨_, _, _, _, _, _, _, rfl⟩ := effect_rx_frame he; rfl
  | poll k => obtain ⟨_, _, _, _, _, -, rfl⟩ := effect_poll_frame he; rfl
  | async => obtain ⟨_, _, _, _, -, rfl⟩ := effect_async_frame he; rfl

/-- No move writes the schedule: the step alone takes the move from it. -/
theorem moveEffect_sched {m : Move} (he : MoveEffect s m t) : t.sched = s.sched := by
  cases he with
  | host k _ he => obtain ⟨_, _, _, _, _, _, _, -, rfl⟩ := hostEffect_frame he; rfl
  | agent l _ he => exact effect_label_sched (s := actAs (l.actor s) s) he
  | transport x => obtain ⟨_, _, _, h⟩ := transportInput_frame x s; rw [h]
  | reset => rfl

/-- A poll for an idle caller finds no waiter and changes nothing (R203). -/
theorem effect_poll_idle {prog : List HostOp} (hc : s.callers[s.actor]? = some ⟨prog, .idle⟩)
    (he : Effect .syncPoll s t) : t = s := by
  cases he with
  | hold => rfl
  | pollHit _ _ _ _ _ _ _ hw | pollTimeout _ _ _ _ hw | pollCounts _ _ _ _ hw => simp [hc] at hw

/-- An idle caller stays idle with its program through every move but its own; Reset, too, leaves an idle caller as it is
(R306; log 18). -/
theorem moveEffect_idle {m : Move} {k : Nat} {prog : List HostOp} (hm : m ≠ .host k) (he : MoveEffect s m t)
    (hc : s.callers[k]? = some ⟨prog, .idle⟩) : t.callers[k]? = some ⟨prog, .idle⟩ := by
  by_cases hr : m = .reset
  · subst hr
    cases he
    simp [hc, abandon]
  · by_cases hp : m = .agent (.poll k)
    · subst hp
      cases he with
      | agent _ _ he =>
        obtain rfl := effect_poll_idle (s := actAs k s) hc he
        exact hc
    · obtain h | ⟨j, hj, -, hothers⟩ := moveEffect_callers hr he
      · rwa [h]
      · have hjk : k ≠ j := by
          rintro rfl
          exact hj.elim hm hp
        exact (hothers k hjk).trans hc

theorem runSteps_succ (n : Nat) (h : step s = .next t) : runSteps (n + 1) s = runSteps n t := by
  simp only [runSteps, h]

/-- Through the moves `mid`, none of them its own, an idle caller keeps its program (R84, R306). -/
theorem runSteps_idle {k : Nat} {prog : List HostOp} {ms : List Move} (mid : List Move) (hmid : .host k ∉ mid)
    (hs : s.sched = mid ++ ms) (hc : s.callers[k]? = some ⟨prog, .idle⟩) :
    ∃ u, runSteps mid.length s = .next u ∧ u.sched = ms ∧ u.callers[k]? = some ⟨prog, .idle⟩ := by
  induction mid generalizing s with
  | nil => exact ⟨s, rfl, hs, hc⟩
  | cons m mid ih =>
    obtain ⟨hm, hmid⟩ := List.ne_and_not_mem_of_not_mem_cons hmid
    obtain ⟨t, ht, he⟩ := runMove_effect m (scheduled (mid ++ ms) s)
    obtain ⟨u, hu, hus, huc⟩ := ih hmid (moveEffect_sched he) (moveEffect_idle (Ne.symm hm) he hc)
    exact ⟨u, (runSteps_succ mid.length ((step_eq hs).trans ht)).trans hu, hus, huc⟩

/-- The first move of a pseudo-operation returns ENCODE's frame to its caller, who has the second operation on that frame
next (R84, R102). -/
theorem step_pseudo_short {k : Nat} {ms : List Move} {p : Pseudo} {dev cmd : Byte} {body : Bytes}
    {ops : List HostOp} (hs : s.sched = .host k :: ms)
    (hc : s.callers[k]? = some ⟨.pseudo p dev cmd body :: ops, .idle⟩) (hb : body.length ≤ 255) :
    step s =
      .next { s with
        sched := ms, actor := k
        callers := s.callers.set k ⟨.bytes (encode (p.second (buildFrame dev cmd s.seq body))) :: ops, .idle⟩
        results := s.results ++ [⟨k, buildFrame dev cmd s.seq body⟩] } := by
  have hk : k < s.callers.length := (List.getElem?_eq_some_iff.mp hc).1
  rw [step_host_pseudo hs hc, issuePseudo_short p dev cmd _ hb, dropOperation_eq (s := actAs k (scheduled ms s)) hc,
    pushOperation_eq (ops := ops) (st := .idle) (by simp [hk])]
  simp [answer, actAs, scheduled]

/-- ENCODE's frame is whole, so the second operation's bytes decode to SEND or SYNC_REQ of it (R84, R102). -/
theorem decodeHost_second (p : Pseudo) (dev cmd seq : Byte) {body : Bytes} (h : body.length ≤ 255) :
    decodeHost (encode (p.second (buildFrame dev cmd seq body))) = .ok (p.second (buildFrame dev cmd seq body)) := by
  have hwhole : lengthMatches (buildFrame dev cmd seq body) = true := by
    simp [lengthMatches, buildFrame_length, buildFrame_bodyLen dev cmd seq h]
  cases p <;> exact decodeHost_encode (c := Config.default) hwhole rfl

/-! ### Labels -/

theorem decodeLabel_code (l : Label) : decodeLabel [l.code] = .ok l.instr := by
  cases l <;> rfl

theorem actor_scheduled (l : Label) (ms : List Move) (s : State) : l.actor (scheduled ms s) = l.actor s := by
  cases l <;> rfl

/-! ### Frame classes -/

/-- While RUN = 1 the instruction of a received frame's class is COMMIT of the frame (R165, R167). -/
theorem exec_rxInstr (f : Frame) (hr : s.run = true) : exec (rxInstr f) s = .next (commit f s) := by
  cases hclass : rxClass f <;>
    simp [rxInstr, hclass, exec, execFrameRxSync, execFrameRxAsync, execFrameRxOther, hr, commit, ifValid, route]

/-- In a drain the instruction of a frame's shape is CLASSIFY of the frame (R233). -/
theorem exec_shapeInstr (e : Frame) (hr : s.run = true) (hd : s.drain = true) :
    exec (shapeInstr s.cfg.collTagIndex e) s = .next (classify e s) := by
  have hready : s.drainReady = true := (drainReady_iff s).mpr ⟨hr, hd⟩
  cases hshape : shapeOf s.cfg.collTagIndex e <;>
    simp [shapeInstr, hshape, exec, execAsyncCollision, execAsyncSample, execAsyncOther, hready, classify]

theorem abuf_length_of_chk (hok : s.rxPhaseOk = true) (hp : s.phaseRxf = .chk) :
    s.abuf.length = 6 + bodyLen s.abuf := by
  simpa [State.rxPhaseOk, hp] using hok

/-- Before the checksum byte the framer needs one byte (R24). -/
theorem need_chk (hok : s.rxPhaseOk = true) (hp : s.phaseRxf = .chk) : need s.phaseRxf s.abuf = 1 := by
  simp [hp, need, abuf_length_of_chk hok hp]

/-- An answered read takes what the answer allows (R160). -/
theorem exec_rxStep_upTo {j : Nat} {as : List ReadAnswer} (hr : s.run = true) (ha : s.rxAnswers = .upTo j :: as) :
    exec .rxStep s = .next (absorb (bytesRead j s) { s with rxAnswers := as }) := by
  simp only [exec, execRxStep, if_pos hr, ha]

/-- The read of the checksum byte commits the frame (R160, R165). -/
theorem absorb_chk (c : Byte) (hok : s.rxPhaseOk = true) (hp : s.phaseRxf = .chk) :
    absorb [c] s = commit (s.abuf ++ [c]) { s with rxs := s.rxs.drop 1, abuf := [], phaseRxf := .hdr } := by
  have hlen := abuf_length_of_chk hok hp
  have hbody : bodyLen (s.abuf ++ [c]) = bodyLen s.abuf := bodyLen_append (by omega)
  have hwhole : (s.abuf ++ [c]).length = hdrLen + 1 + bodyLen (s.abuf ++ [c]) := by
    simp [hbody, hlen]
    omega
  simp only [absorb, advanceFramer, hp, if_pos hwhole, List.length_singleton]

/-- The worker's write is FRAME_TX of its current frame (R134; log 11). -/
theorem execTxStepWrite_eq_execFrameTx {f : Frame} (hf : s.txcur = some f) : execTxStepWrite s = execFrameTx f s := by
  simp [execTxStepWrite, execFrameTx, hf]

end

/-! ### The statements -/

/-- Settles O37: the step issues the bytes, and they decode. -/
theorem stepRunsHostOperation : Obligations.StepRunsHostOperation := by
  intro s k ms bs ops i hs hc hd
  rw [step_host_bytes hs hc, issue_of_ok hd, dropOperation_eq (s := actAs k (scheduled ms s)) hc]
  rfl

/-- Settles O36: whatever the decoder finds wrong, the operation is refused in the same way. -/
theorem illegalHostOperationIsRefused : Obligations.IllegalHostOperationIsRefused := by
  intro s k ms op bs ops hs hc h
  have hill : isReserved op = true ∨ isInternal op = true ∨ (op :: bs).length < opLength (op :: bs) := by
    rw [isReserved_iff, isInternal_iff]
    tauto
  rw [step_host_bytes hs hc, issue_refused hill, dropOperation_eq (s := actAs k (scheduled ms s)) hc]
  rfl

/-- Settles O35: the meaning of RESERVED is the refusal itself. -/
theorem reservedCodeIsRefused : Obligations.ReservedCodeIsRefused := fun _ _ => rfl

/-- Settles O39: a label's code decodes to the label's own instruction. -/
theorem stepRunsLabelledStep : Obligations.StepRunsLabelledStep := by
  intro s l ms i hs hd
  obtain rfl : l.instr = i := Except.ok.inj ((decodeLabel_code l).symm.trans hd)
  rw [step_eq hs, runMove, actor_scheduled]
  rfl

/-- An idle caller's next move, whatever moves but its own come before it, runs the operation it holds (R306). -/
theorem laterMove_runs {s : State} {k : Nat} {mid ms : List Move} {bs : Bytes} {ops : List HostOp} {i : Instr}
    (hmid : .host k ∉ mid) (hs : s.sched = mid ++ .host k :: ms)
    (hc : s.callers[k]? = some ⟨.bytes bs :: ops, .idle⟩) (hd : decodeHost bs = .ok i) :
    ∃ u, runSteps mid.length s = .next u ∧
      step u = exec i { u with sched := ms, actor := k, callers := u.callers.set k ⟨ops, .idle⟩ } := by
  obtain ⟨u, hu, hus, huc⟩ := runSteps_idle mid hmid hs hc
  exact ⟨u, hu, stepRunsHostOperation u k ms bs ops i hus huc hd⟩

/-- Settles O38: the first move by ENCODE, the second by the round trip of the operation on ENCODE's frame, which the
caller, idle all the while, still has next. -/
theorem pseudoOperationPassesTheFrame : Obligations.PseudoOperationPassesTheFrame := by
  intro s k mid ms p dev cmd body ops hs hmid hc
  refine ⟨fun hb => ?_, fun hb => ?_⟩
  · have hk : k < s.callers.length := (List.getElem?_eq_some_iff.mp hc).1
    have hstep := step_pseudo_short hs hc hb
    have hd := decodeHost_second p dev cmd s.seq hb
    refine ⟨hstep, ?_⟩
    rw [runSteps_succ mid.length hstep]
    cases p <;> exact laterMove_runs hmid rfl (by simp [hk]) hd
  · rw [step_host_pseudo hs hc, issuePseudo_long p dev cmd _ hb,
      dropOperation_eq (s := actAs k (scheduled (mid ++ .host k :: ms) s)) hc]
    rfl

/-- Settles O40: a completing read is COMMIT, a dispatch CLASSIFY and a write TWrite, and so are the meanings of the
frames' classes. -/
theorem stepRunsFrameClass : Obligations.StepRunsFrameClass := by
  refine ⟨fun s j as c rest i hr hok hp ha hx hd => ?_, fun s l e hr hd hl => ?_, fun s f i hf hd => ?_⟩
  · obtain ⟨-, rfl⟩ := decodeWireRx_eq_ok.mp hd
    have hread : bytesRead (j + 1) s = [c] := by simp [bytesRead, need_chk hok hp, hx]
    rw [exec_rxStep_upTo hr ha, hread, absorb_chk (s := { s with rxAnswers := as }) c hok hp]
    simp only [hx, List.drop_one, List.tail_cons]
    exact (exec_rxInstr (s := { s with rxAnswers := as, rxs := rest, abuf := [], phaseRxf := .hdr }) _ hr).symm
  · rw [exec_shapeInstr e (s := { s with asyncbuf := l }) hr hd]
    simp [exec, execAsyncStep, (drainReady_iff s).mpr ⟨hr, hd⟩, hl]
  · obtain ⟨-, rfl⟩ := decodeWireTx_eq_ok.mp hd
    exact execTxStepWrite_eq_execFrameTx hf

/-- Settles O57: each input appends to one queue. -/
theorem transportInputsReachOnlyTheirQueues : Obligations.TransportInputsReachOnlyTheirQueues := by
  intro s ms b ra wa
  exact ⟨fun hs => step_eq hs, fun hs => step_eq hs, fun hs => step_eq hs⟩

end Sys2Proof.Machine
end

section
/-! PROOFS. The codec of 40_codec.md: the laws of the checksum, how a frame falls into DECODE's operands, and what CKSUM,
ENCODE and DECODE answer. -/

namespace Sys2Proof

/-! ### The checksum -/

theorem byteSum_cons (x : Byte) (b : Bytes) : byteSum (x :: b) = x.toNat + byteSum b := rfl

theorem byteSum_perm {b b' : Bytes} (h : b.Perm b') : byteSum b = byteSum b' := by
  rw [byteSum_eq_sum, byteSum_eq_sum, (h.map BitVec.toNat).sum_eq]

/-- The complement law (R101 (a)). -/
theorem byteSum_add_cksum (b : Bytes) : (byteSum b + (cksum b).toNat) % 256 = 255 := by
  rw [cksum_toNat]
  omega

/-- A byte replaced in place moves the sum by the difference of the two bytes. -/
theorem byteSum_set {b : Bytes} {i : Nat} (y : Byte) (h : i < b.length) :
    byteSum (b.set i y) + (byteAt b i).toNat = byteSum b + y.toNat := by
  induction b generalizing i with
  | nil => exact absurd h (Nat.not_lt_zero i)
  | cons x b ih =>
    cases i with
    | zero =>
      simp only [byteAt, List.getD_cons_zero, List.set_cons_zero, byteSum_cons]
      omega
    | succ i =>
      have hi := ih (Nat.lt_of_succ_lt_succ h)
      simp only [byteAt, List.getD_cons_succ, List.set_cons_succ, byteSum_cons] at hi ⊢
      omega

/-! ### The bytes of a frame -/

theorem lengthMatches_iff (f : Bytes) : lengthMatches f = true ↔ f.length = bodyLen f + 7 := beq_iff_eq

theorem byteAt_set_self {f : Bytes} {i : Nat} (y : Byte) (h : i < f.length) : byteAt (f.set i y) i = y := by
  simp [byteAt, List.getD_eq_getElem?_getD, h]

theorem byteAt_set_ne {f : Bytes} {i j : Nat} (y : Byte) (h : i ≠ j) : byteAt (f.set i y) j = byteAt f j := by
  simp [byteAt, List.getD_eq_getElem?_getD, h]

theorem byteAt_drop (f : Bytes) (n i : Nat) : byteAt (f.drop n) i = byteAt f (n + i) := by
  simp [byteAt, List.getD_eq_getElem?_getD]

/-- The header holds the length byte. -/
theorem bodyLen_take_header (f : Bytes) : bodyLen (f.take 6) = bodyLen f := by
  simp [bodyLen, byteAt, List.getD_eq_getElem?_getD]

theorem chkByte_eq_getLast {f : Bytes} (h : f ≠ []) : chkByte f = f.getLast h := by
  have hlast : f.length - 1 < f.length := Nat.sub_one_lt_of_lt (List.length_pos_iff.mpr h)
  rw [chkByte, byteAt, List.getD_eq_getElem _ _ hlast, List.getLast_eq_getElem]

/-- The checksum byte ends what stands from any index of the frame on. -/
theorem dropLast_drop_append_chkByte {f : Bytes} {n : Nat} (h : n < f.length) :
    (f.drop n).dropLast ++ [chkByte f] = f.drop n := by
  have hdrop : f.drop n ≠ [] := List.drop_eq_nil_iff.not.mpr (Nat.not_le.mpr h)
  rw [chkByte_eq_getLast (List.ne_nil_of_length_pos (Nat.zero_lt_of_lt h)), ← List.getLast_drop hdrop,
    List.dropLast_append_getLast]

/-- A frame's checksum validates exactly when all its bytes from index 2 on, the checksum byte too, add to 255 mod 256
(R71 (b), R101). -/
theorem checksumMatches_iff_byteSum {f : Bytes} (h : 2 < f.length) :
    checksumMatches f = true ↔ byteSum (f.drop 2) % 256 = 255 := by
  have hsum : byteSum (f.drop 2) = byteSum (covered f) + (chkByte f).toNat := by
    rw [← dropLast_drop_append_chkByte h, byteSum_append]
    rfl
  have hchk := (chkByte f).isLt
  rw [checksumMatches, beq_iff_eq, ← BitVec.toNat_inj, cksum_toNat, hsum]
  omega

/-! ### One changed byte -/

/-- A change of the length byte breaks frame invariant (a). -/
theorem lengthMatches_set_lengthByte {f : Bytes} {y : Byte} (hl : lengthMatches f = true) (hy : y ≠ byteAt f 5) :
    lengthMatches (f.set 5 y) = false := by
  rw [lengthMatches_iff] at hl
  have hlen : bodyLen (f.set 5 y) = y.toNat := congrArg BitVec.toNat (byteAt_set_self y (by omega))
  have hne : y.toNat ≠ bodyLen f := BitVec.toNat_inj.not.mpr hy
  rw [Bool.eq_false_iff, ne_eq, lengthMatches_iff, List.length_set, hlen]
  omega

/-- Any other change keeps it. -/
theorem lengthMatches_set_ne {f : Bytes} {i : Nat} (y : Byte) (hi : i ≠ 5) :
    lengthMatches (f.set i y) = lengthMatches f := by
  simp [lengthMatches, bodyLen, byteAt_set_ne y hi]

/-- Every change from the device id on, of the checksum byte too, breaks frame invariant (b) (R108). -/
theorem checksumMatches_set {f : Bytes} {i : Nat} {y : Byte} (hc : checksumMatches f = true) (h2 : 2 ≤ i)
    (hi : i < f.length) (hy : y ≠ byteAt f i) : checksumMatches (f.set i y) = false := by
  have hlen : 2 < f.length := Nat.lt_of_le_of_lt h2 hi
  have hsum := byteSum_set (b := f.drop 2) (i := i - 2) y (by rw [List.length_drop]; omega)
  rw [byteAt_drop, List.set_drop, Nat.add_sub_cancel' h2] at hsum
  have hne : y.toNat ≠ (byteAt f i).toNat := BitVec.toNat_inj.not.mpr hy
  have hylt := y.isLt
  have hxlt := (byteAt f i).isLt
  rw [checksumMatches_iff_byteSum hlen] at hc
  rw [Bool.eq_false_iff, ne_eq, checksumMatches_iff_byteSum (by rwa [List.length_set])]
  omega

/-! ### The frame ENCODE builds -/

theorem buildFrame_lengthMatches (dev cmd seq : Byte) {body : Bytes} (h : body.length ≤ 255) :
    lengthMatches (buildFrame dev cmd seq body) = true := by
  rw [lengthMatches_iff, buildFrame_length, buildFrame_bodyLen dev cmd seq h]

theorem buildFrame_checksumMatches (dev cmd seq : Byte) (body : Bytes) :
    checksumMatches (buildFrame dev cmd seq body) = true := by
  rw [buildFrame, checksumMatches_append_singleton _ (by simp), beq_self_eq_true]

theorem buildFrame_body (dev cmd seq : Byte) (body : Bytes) :
    ((buildFrame dev cmd seq body).drop 6).dropLast = body := by
  simp [buildFrame_eq]

end Sys2Proof

namespace Sys2Proof.Machine

section
variable {s : State}

/-! ### What ENCODE and DECODE answer -/

theorem exec_encode_short (dev cmd : Byte) {body : Bytes} (h : body.length ≤ 255) :
    exec (.encode dev cmd body) s = .next (answer (buildFrame dev cmd s.seq body) s) := if_pos h

theorem exec_encode_long (dev cmd : Byte) {body : Bytes} (h : 255 < body.length) :
    exec (.encode dev cmd body) s = .next (refuse (.encodeBodyTooLong body.length) s) := if_neg (Nat.not_le.mpr h)

theorem exec_decode_badLength {h body : Bytes} (chk : Byte) (hl : body.length ≠ bodyLen h) :
    exec (.decode h body chk) s = .next (answer [0x08] (raise .decodeLenMismatch s)) := if_pos hl

theorem exec_decode_badChecksum {h body : Bytes} {chk : Byte} (hl : body.length = bodyLen h)
    (hc : checksumMatches (h ++ body ++ [chk]) = false) :
    exec (.decode h body chk) s = .next (answer [0x04] (raise .rxChecksumMismatch s)) := by
  simp only [exec, execDecode, hl, hc, ne_eq, not_true_eq_false, Bool.false_eq_true, if_false, Cause.code]

theorem exec_decode_valid {h body : Bytes} {chk : Byte} (hl : body.length = bodyLen h)
    (hc : checksumMatches (h ++ body ++ [chk]) = true) :
    exec (.decode h body chk) s = .next (answer (0x00 :: (h ++ body ++ [chk])) s) := by
  simp only [exec, execDecode, hl, hc, ne_eq, not_true_eq_false, if_false, if_true, List.singleton_append]

/-! ### DECODE of a frame's parts -/

/-- DECODE of the header, the body and the checksum byte that a frame falls into (R107, R108). -/
def decodeParts (f : Frame) : Instr := .decode (f.take 6) ((f.drop 6).dropLast) (chkByte f)

variable {f : Frame}

theorem parts_append (h : 7 ≤ f.length) : f.take 6 ++ (f.drop 6).dropLast ++ [chkByte f] = f := by
  rw [List.append_assoc, dropLast_drop_append_chkByte h, List.take_append_drop]

/-- DECODE's length check on a frame's parts is frame invariant (a). -/
theorem parts_body_length (h : 7 ≤ f.length) :
    ((f.drop 6).dropLast).length = bodyLen (f.take 6) ↔ lengthMatches f = true := by
  rw [lengthMatches_iff, bodyLen_take_header, List.length_dropLast, List.length_drop]
  omega

theorem exec_decodeParts_badLength (h : 7 ≤ f.length) (hl : lengthMatches f = false) :
    exec (decodeParts f) s = .next (answer [0x08] (raise .decodeLenMismatch s)) :=
  exec_decode_badLength _ ((parts_body_length h).not.mpr (Bool.eq_false_iff.mp hl))

theorem exec_decodeParts_badChecksum (h : 7 ≤ f.length) (hl : lengthMatches f = true)
    (hc : checksumMatches f = false) :
    exec (decodeParts f) s = .next (answer [0x04] (raise .rxChecksumMismatch s)) :=
  exec_decode_badChecksum ((parts_body_length h).mpr hl) (by rwa [parts_append h])

theorem exec_decodeParts_valid (h : 7 ≤ f.length) (hl : lengthMatches f = true) (hc : checksumMatches f = true) :
    exec (decodeParts f) s = .next (answer (0x00 :: f) s) := by
  have hparts := parts_append h
  rw [decodeParts, exec_decode_valid ((parts_body_length h).mpr hl) (by rwa [hparts]), hparts]

end

/-! ### The statements -/

/-- Settles O2: all three laws are about the sum mod 256, which the checksum determines and is determined by. -/
theorem checksumLaws : Obligations.ChecksumLaws := by
  refine ⟨fun b => ?_, fun b b' x y hxy heq => hxy ?_, fun b b' b'' x y x' y' hxy => ?_⟩
  · rw [← byteSum_eq_sum]
    exact byteSum_add_cksum b
  · rw [cksum_eq_iff, byteSum_append, byteSum_append, byteSum_cons, byteSum_cons] at heq
    exact BitVec.eq_of_toNat_eq (by omega)
  · have hsum : (x.toNat + y.toNat) % 256 = (x'.toNat + y'.toNat) % 256 := by
      simpa only [BitVec.toNat_add] using congrArg BitVec.toNat hxy
    simp only [cksum_eq_iff, byteSum_append, byteSum_cons]
    omega

/-- Settles O4: the frame ENCODE builds satisfies both invariants, so DECODE of its parts is valid. -/
theorem decodeOfEncodeIsValid : Obligations.DecodeOfEncodeIsValid := by
  intro dev cmd body s hb
  have hl := buildFrame_lengthMatches dev cmd s.seq hb
  have hc := buildFrame_checksumMatches dev cmd s.seq body
  have h7 : 7 ≤ (buildFrame dev cmd s.seq body).length := by
    rw [buildFrame_length]
    omega
  exact ⟨_, exec_encode_short dev cmd hb, fun _ => exec_decodeParts_valid h7 hl hc, hl, hc, rfl, rfl, rfl, rfl, rfl,
    buildFrame_bodyLen dev cmd s.seq hb, buildFrame_body dev cmd s.seq body⟩

/-- Settles O6: the length byte's change breaks the first invariant, every other one only the second. -/
theorem decodeFindsOneChangedByte : Obligations.DecodeFindsOneChangedByte := by
  intro f i y s hl hc h2 hi hy
  have h7 : 7 ≤ (f.set i y).length := by
    rw [List.length_set, (lengthMatches_iff f).mp hl]
    omega
  have hparts : byteAt (f.set i y) (f.length - 1) = chkByte (f.set i y) := by rw [chkByte, List.length_set]
  rw [hparts]
  by_cases h5 : i = 5
  · subst h5
    exact exec_decodeParts_badLength h7 (lengthMatches_set_lengthByte hl hy)
  · rw [if_neg h5]
    exact exec_decodeParts_badChecksum h7 ((lengthMatches_set_ne y h5).trans hl) (checksumMatches_set hc h2 hi hy)

/-- Settles O1: the corner cases follow from the checksum's value as a number. -/
theorem cksumReturnsComplementOfSum : Obligations.CksumReturnsComplementOfSum := by
  simp only [Obligations.CksumReturnsComplementOfSum, ← byteSum_eq_sum]
  refine ⟨fun _ _ => rfl, fun _ => rfl, cksum_toNat, rfl, fun b h => ?_, fun b h => ?_, fun b b' h => ?_,
    fun b b' => ?_⟩
  · rw [cksum, h]
    rfl
  · rw [cksum, h]
    rfl
  · rw [cksum, cksum, byteSum_perm h]
  · rw [cksum_eq_iff, byteSum_append, byteSum_append, byteSum_cons]
    simp

/-- Settles O3: both sides of the limit, with the frame written out. -/
theorem encodeReturnsStampedFrame : Obligations.EncodeReturnsStampedFrame := by
  refine ⟨fun dev cmd body s hb => ?_, fun dev cmd body s hb => exec_encode_long dev cmd hb, fun _ _ _ => rfl⟩
  rw [exec_encode_short dev cmd hb, buildFrame_eq]
  rfl

/-- Settles O5: DECODE's checksum check compares the checksum byte with CKSUM of what stands before it from index 2
on. -/
theorem decodeValidatesLengthThenChecksum : Obligations.DecodeValidatesLengthThenChecksum := by
  intro h body chk s hh
  have hcheck : checksumMatches (h ++ body ++ [chk]) = (chk == cksum (h.drop 2 ++ body)) := by
    rw [checksumMatches_append_singleton _ (by rw [List.length_append]; omega),
      List.drop_append_of_le_length (by omega)]
  refine ⟨exec_decode_badLength chk, fun hl hne => ?_, fun hl heq => ?_, rfl⟩
  · exact exec_decode_badChecksum hl (hcheck.trans (beq_false_of_ne hne))
  · exact exec_decode_valid hl (hcheck.trans (beq_iff_eq.mpr heq))

end Sys2Proof.Machine
end

section
/-! PROOFS. The transmit path (41_transmit.md): what SEND, TX_STEP_TAKE and TX_STEP_WRITE do under each of their
conditions, the count of full writes along a run (R136), and the order in which bytes reach the transport (R138). -/

namespace Sys2Proof.Machine

section
variable {s t : State}

/-! ### SEND -/

theorem exec_send_room (f : Frame) (h : s.txq.length < s.cfg.txqDepth) :
    exec (.send f) s = .next (answer [] (setStatus .idle (enqueue f s))) := if_pos ((txqHasRoom_iff s).mpr h)

theorem exec_send_full (f : Frame) (h : s.cfg.txqDepth ≤ s.txq.length) :
    exec (.send f) s = .next (setStatus (.holding f) s) := if_neg ((txqHasRoom_iff s).not.mpr (Nat.not_lt.mpr h))

/-- A new status replaces the acting caller's and leaves it its program. -/
theorem setStatus_eq {prog : List HostOp} {st₀ : CallerStatus} (st : CallerStatus)
    (h : s.callers[s.actor]? = some ⟨prog, st₀⟩) :
    setStatus st s = { s with callers := s.callers.set s.actor ⟨prog, st⟩ } := by
  unfold setStatus
  rw [modify_set _ _ _ _ h]

/-- A caller that goes on holding in what it holds in does not change. -/
theorem setStatus_same {prog : List HostOp} {st : CallerStatus} (h : s.callers[s.actor]? = some ⟨prog, st⟩) :
    setStatus st s = s := by
  obtain ⟨hk, hc⟩ := List.getElem?_eq_some_iff.mp h
  rw [setStatus_eq st h, ← hc, List.set_getElem_self]

/-- The step of a caller that holds in a SEND is that SEND (R131). -/
theorem step_host_holding {k : Nat} {ms : List Move} {prog : List HostOp} {f : Frame} (hs : s.sched = .host k :: ms)
    (hc : s.callers[k]? = some ⟨prog, .holding f⟩) : step s = exec (.send f) (actAs k (scheduled ms s)) :=
  (step_eq hs).trans (hostMove_holding (s := actAs k (scheduled ms s)) hc)

/-! ### TX_STEP_TAKE and TX_STEP_WRITE -/

theorem exec_txStepTake_ready {f : Frame} {q : List Frame} (hr : s.run = true) (hp : s.phaseTxw = .idle)
    (hq : s.txq = f :: q) : exec .txStepTake s = .next { s with txq := q, txcur := some f, phaseTxw := .busy } := by
  simp only [exec, execTxStepTake, (takeReady_iff s).mpr ⟨hr, hp⟩, hq, if_true]

/-- An answered write of the current frame (R134). -/
theorem exec_txStepWrite_answered {f : Frame} {a : WriteAnswer} {as : List WriteAnswer} (hr : s.run = true)
    (hp : s.phaseTxw = .busy) (hf : s.txcur = some f) (ha : s.txAnswers = a :: as) :
    exec .txStepWrite s = .next (writeFrame f a { s with txAnswers := as }) := by
  simp only [exec, execTxStepWrite, transmit, (writeReady_iff s).mpr ⟨hr, hp⟩, hf, ha, if_true]

/-- A write of the whole frame (R133, R134). -/
theorem writeFrame_full {f : Frame} {a : WriteAnswer} (h : acceptedCount a f = some f.length) :
    writeFrame f a s = { s with txs := s.txs ++ f, seq := s.seq + 1, txcur := none, phaseTxw := .idle } := by
  obtain ⟨-, heq⟩ | ⟨rfl, -⟩ | ⟨n, hlt, -, hn, -⟩ := writeFrame_cases f a s
  · exact heq
  · nomatch h
  · exact absurd (Option.some.inj (hn.symm.trans h)) hlt.ne

/-- A write of `n` bytes short of the frame's end (R134, R282). -/
theorem writeFrame_short {f : Frame} {n : Nat} (h : n < f.length) :
    writeFrame f (.upTo n) s =
      { s with
        txs := s.txs ++ f.take n
        evlog := s.evlog ++ [⟨.error, [0x02, BitVec.ofNat 8 (n / 256), BitVec.ofNat 8 n]⟩]
        trace := s.trace ++ [.txShortWrite n], txcur := none, phaseTxw := .idle } := by
  obtain ⟨hfull, -⟩ | ⟨herr, -⟩ | ⟨m, -, hm, -, heq⟩ := writeFrame_cases f (.upTo n) s
  · have hmin : min n f.length = f.length := Option.some.inj hfull
    omega
  · nomatch herr
  · cases hm
    exact heq

/-! ### Full writes along a run -/

/-- The step takes the first move from the schedule. -/
theorem step_sched (h : step s = .next t) : t.sched = s.sched.tail := by
  obtain ⟨hs, rfl⟩ | ⟨m, ms, hs, he⟩ := step_cases h
  · rw [hs, List.tail_nil]
  · rw [moveEffect_sched he, hs, scheduled_sched, List.tail_cons]

/-- A run of one step more takes that step first. -/
theorem runSteps_succ_inv {n : Nat} (h : runSteps (n + 1) s = .next t) :
    ∃ u, step s = .next u ∧ runSteps n u = .next t := by
  unfold runSteps at h
  split at h
  · rename_i u hu
    exact ⟨u, hu, h⟩
  · nomatch h
  · nomatch h

theorem fullWrites_succ (n : Nat) (h : step s = .next t) :
    fullWrites (n + 1) s = (if nextIsFullWrite s then 1 else 0) + fullWrites n t := by
  simp only [fullWrites, h]

/-! ### The transmit line -/

/-- Frames that join the end of TXQ leave the line before them as it is. -/
theorem transmitLine_prefix (hx : t.txs = s.txs) (hc : t.txcur = s.txcur) (hq : s.txq <+: t.txq) :
    s.transmitLine <+: t.transmitLine := by
  obtain ⟨q, hq⟩ := hq
  exact ⟨q.flatten, by simp [State.transmitLine, hx, hc, ← hq]⟩

/-- A worker that is idle has no current frame (R23). -/
theorem txcur_of_idle (hok : s.txPhaseOk = true) (hp : s.phaseTxw = .idle) : s.txcur = none := by
  have hphase : (s.phaseTxw == .busy) = s.txcur.isSome := beq_iff_eq.mp hok
  rw [hp] at hphase
  exact Option.isNone_iff_eq_none.mp (Option.isSome_eq_false_iff.mp hphase.symm)

/-- A host operation writes TXQ at its end only (R130). -/
theorem effect_host_txq {i : Instr} (hi : i.layer = .host) (he : Effect i s t) : s.txq <+: t.txq := by
  cases he with
  | hold | cksum | encode | encodeTooLong | decodeLength | decodeChecksum | decodeValid | sendHolds | syncReqHolds
    | tick | start | reserved => exact List.prefix_rfl
  | send | syncReq => exact List.prefix_append _ _
  | _ => simp [Instr.layer] at hi

/-- The move of a host caller writes TXQ at its end only. -/
theorem hostEffect_txq (he : HostEffect s t) : s.txq <+: t.txq := by
  cases he with
  | waits | refused | passes | passesNothing => exact List.prefix_rfl
  | retriesSend _ _ _ _ he | retriesSyncReq _ _ _ _ _ he => exact effect_host_txq rfl he
  | issues _ _ _ _ _ hd he => exact effect_host_txq (s := dropOperation s) (decodeHost_layer hd) he

theorem hostEffect_transmitLine (he : HostEffect s t) : s.transmitLine <+: t.transmitLine := by
  have hq := hostEffect_txq he
  obtain ⟨_, _, _, _, _, _, _, -, rfl⟩ := hostEffect_frame he
  exact transmitLine_prefix rfl rfl hq

/-- TX_STEP_TAKE moves the oldest frame from the front of TXQ to the place right before it (R132). -/
theorem effect_take_transmitLine (hok : s.txPhaseOk = true) (he : Effect .txStepTake s t) :
    t.transmitLine = s.transmitLine := by
  cases he with
  | hold => rfl
  | take f q _ _ hp hq => simp [State.transmitLine, txcur_of_idle hok hp, hq]

/-- A full TX_STEP_WRITE moves the current frame to the end of TXS (R134). -/
theorem effect_write_transmitLine {ms : List Move} {k : Nat} (hs : s.sched = .agent .txWrite :: ms)
    (hfull : s.txAnswers ≠ [] → s.writeReady = true → nextIsFullWrite s = true)
    (he : Effect .txStepWrite (actAs k (scheduled ms s)) t) : t.transmitLine = s.transmitLine := by
  cases he with
  | hold => rfl
  | write f a as _ hr hp hf ha =>
    have hcur : s.txcur = some f := hf
    have hans : s.txAnswers = a :: as := ha
    have hnext : nextIsFullWrite s = true := hfull (by simp [hans]) ((writeReady_iff s).mpr ⟨hr, hp⟩)
    have hcount : acceptedCount a f = some f.length := by
      rwa [nextIsFullWrite_of_answer hs hr hp hcur hans, beq_iff_eq] at hnext
    rw [writeFrame_full hcount]
    simp [State.transmitLine, hcur]

/-- Of the agents' steps only the two of the transmit worker move the transmit line. -/
theorem effect_label_transmitLine {l : Label} (hl : l ≠ .txWrite) (hok : s.txPhaseOk = true)
    (he : Effect l.instr s t) : t.transmitLine = s.transmitLine := by
  cases l with
  | txTake => exact effect_take_transmitLine hok he
  | txWrite => exact absurd rfl hl
  | rx => obtain ⟨_, _, _, _, _, _, _, rfl⟩ := effect_rx_frame he; rfl
  | poll k => obtain ⟨_, _, _, _, _, -, rfl⟩ := effect_poll_frame he; rfl
  | async => obtain ⟨_, _, _, _, -, rfl⟩ := effect_async_frame he; rfl

/-- A move that is neither a write nor Reset only adds to the end of the transmit line (R138). -/
theorem moveEffect_transmitLine {m : Move} (hm : m ≠ .reset) (hw : m ≠ .agent .txWrite) (hok : s.txPhaseOk = true)
    (he : MoveEffect s m t) : s.transmitLine <+: t.transmitLine := by
  cases he with
  | host k _ he => exact hostEffect_transmitLine (s := actAs k s) he
  | agent l _ he =>
    have hline := effect_label_transmitLine (s := actAs (l.actor s) s) (fun hl => hw (congrArg _ hl)) hok he
    exact hline ▸ List.prefix_rfl
  | transport x =>
    obtain ⟨_, _, _, h⟩ := transportInput_frame x s
    rw [h]
    exact List.prefix_rfl
  | reset => exact absurd rfl hm

end

/-! ### The statements -/

/-- Settles O13, by induction on the number of steps: each advances SEQ exactly when it is a full write. -/
theorem seqCountsFullWrites : Obligations.SeqCountsFullWrites := by
  intro n
  induction n with
  | zero =>
    intro s t _ hrun
    cases hrun
    simp [fullWrites]
  | succ n ih =>
    intro s t hm hrun
    obtain ⟨u, hstep, hrest⟩ := runSteps_succ_inv hrun
    have hu : Move.reset ∉ u.sched := fun h => hm (List.mem_of_mem_tail (step_sched hstep ▸ h))
    have hhead : s.sched.head? ≠ some .reset := fun h => hm (List.mem_of_head? h)
    have hseq : u.seq = s.seq + BitVec.ofNat 8 (if nextIsFullWrite s then 1 else 0) := by
      rw [onlyFullWritesAdvanceSeq s u hstep hhead]
      split <;> simp
    calc t.seq = u.seq + BitVec.ofNat 8 (fullWrites n u) := ih u t hu hrest
      _ = s.seq + BitVec.ofNat 8 (fullWrites (n + 1) s) := by
        rw [hseq, fullWrites_succ n hstep, BitVec.ofNat_add, BitVec.add_assoc]

/-- Settles O14: SEND and SYNC_REQ add at the end of the line, a take and a full write move a frame along it. -/
theorem transmitOrderIsQueueOrder : Obligations.TransmitOrderIsQueueOrder := by
  intro s t hok hstep hm hfull
  obtain ⟨-, rfl⟩ | ⟨m, ms, hs, he⟩ := step_cases hstep
  · exact List.prefix_rfl
  · by_cases hw : m = .agent .txWrite
    · subst hw
      cases he with
      | agent _ _ he =>
        have hline := effect_write_transmitLine hs (hfull (by simp [hs])) he
        exact hline ▸ List.prefix_rfl
    · exact moveEffect_transmitLine (s := scheduled ms s) (by simpa [hs] using hm) hw hok he

/-- Settles O7: both sides of the queue's depth. -/
theorem sendEnqueuesOrHolds : Obligations.SendEnqueuesOrHolds :=
  fun f _ => ⟨exec_send_room f, exec_send_full f, rfl⟩

/-- Settles O8: the held SEND is executed again, and on a full queue it only sets the status its caller already has. -/
theorem heldSendWaitsForRoom : Obligations.HeldSendWaitsForRoom := by
  intro s k ms prog f hs hc
  rw [step_host_holding hs hc]
  refine ⟨fun hfull => ?_, fun hroom => ?_⟩
  · rw [exec_send_full (s := actAs k (scheduled ms s)) f hfull, setStatus_same (s := actAs k (scheduled ms s)) hc]
    rfl
  · rw [exec_send_room (s := actAs k (scheduled ms s)) f hroom,
      setStatus_eq (s := enqueue f (actAs k (scheduled ms s))) .idle hc]
    rfl

/-- Settles O9: the take under its condition; without it the step is disabled and holds. -/
theorem takeDequeuesOldestFrame : Obligations.TakeDequeuesOldestFrame := by
  refine ⟨fun s f q hr hp hq => exec_txStepTake_ready hr hp hq, fun s h => disabledStepHolds _ s ?_⟩
  obtain h | h | h := h <;> simp [enables, State.takeReady, h]

/-- Settles O10: an answered write does what its answer says; an unanswered one is disabled and holds. -/
theorem writeFollowsTransportAnswer : Obligations.WriteFollowsTransportAnswer := by
  refine ⟨fun s f hr hp hf => ⟨fun ha => disabledStepHolds _ s (by simp [enables, ha]), fun a as ha => ?_⟩,
    fun s h => disabledStepHolds _ s ?_⟩
  · rw [exec_txStepWrite_answered hr hp hf ha]
    refine ⟨fun hfull => ?_, ?_, ?_⟩
    · have hcount : acceptedCount a f = some f.length := by
        obtain rfl | rfl := hfull <;> simp [acceptedCount]
      rw [writeFrame_full hcount]
    · rintro n rfl hn
      rw [writeFrame_short hn]
    · rintro rfl
      exact ⟨_, List.take_prefix _ f, rfl⟩
  · obtain h | h := h <;> simp [enables, State.writeReady, h]

end Sys2Proof.Machine
end

section
/-! PROOFS. The receive framer (42_receive_framer.md): what a read does in each phase, how a completed frame is routed,
how much the framer reads, and the cut of the stream it makes however the reads are split (R169). -/

namespace Sys2Proof.Machine

section
variable {s t : State} {f : Frame} {r : Bytes}

/-! ### Validation and routing -/

theorem ifValid_of_match {pass : State → State} (h : checksumMatches f = true) : ifValid f pass s = pass s := if_pos h

theorem ifValid_of_mismatch {pass : State → State} (h : checksumMatches f = false) :
    ifValid f pass s = raise .rxChecksumMismatch s := if_neg (Bool.eq_false_iff.mp h)

theorem commit_of_mismatch (h : checksumMatches f = false) : commit f s = raise .rxChecksumMismatch s :=
  ifValid_of_mismatch h

theorem commit_of_match (h : checksumMatches f = true) : commit f s = route f s := ifValid_of_match h

theorem route_sync (h : byteAt f 1 = 0xFF) : route f s = pushSync f s := by
  simp only [route, rxClass_eq_sync.mpr h]

theorem route_async (h : byteAt f 1 = 0xFE) : route f s = pushAsync f s := by
  simp only [route, rxClass_eq_async.mpr h]

theorem route_other (h : byteAt f 1 ≠ 0xFF) (h' : byteAt f 1 ≠ 0xFE) :
    route f s = raise (.rxUnknownMarker (byteAt f 1)) s := by
  simp only [route, rxClass_eq_other.mpr ⟨h, h'⟩, marker]

theorem exec_frameRxSync (f : Frame) (h : s.run = true) : exec (.frameRxSync f) s = .next (ifValid f (pushSync f) s) :=
  if_pos h

theorem exec_frameRxAsync (f : Frame) (h : s.run = true) :
    exec (.frameRxAsync f) s = .next (ifValid f (pushAsync f) s) := if_pos h

theorem exec_frameRxOther (f : Frame) (h : s.run = true) :
    exec (.frameRxOther f) s = .next (ifValid f (raise (.rxUnknownMarker (marker f))) s) := if_pos h

/-! ### What the framer needs -/

theorem abuf_length_add_need_hdr (hok : s.rxPhaseOk = true) (hp : s.phaseRxf = .hdr) :
    s.abuf.length + need s.phaseRxf s.abuf = 6 := by
  have hl : s.abuf.length < 6 := by simpa [State.rxPhaseOk, hp] using hok
  simp only [hp, need, hdrLen]
  omega

theorem abuf_length_of_body (hok : s.rxPhaseOk = true) (hp : s.phaseRxf = .body) :
    6 ≤ s.abuf.length ∧ s.abuf.length < 6 + bodyLen s.abuf := by
  simpa [State.rxPhaseOk, hp] using hok

theorem abuf_length_add_need_body (hok : s.rxPhaseOk = true) (hp : s.phaseRxf = .body) :
    s.abuf.length + need s.phaseRxf s.abuf = 6 + bodyLen s.abuf := by
  have hl := abuf_length_of_body hok hp
  simp only [hp, need, hdrLen]
  omega

/-- In a consistent phase ABUF and what the framer needs together end a part of the frame: the header while its byte 5
is not there, then the body or the checksum (R24, R164). -/
theorem abuf_length_add_need (hok : s.rxPhaseOk = true) :
    (s.abuf.length < 6 → s.abuf.length + need s.phaseRxf s.abuf = 6) ∧
    (6 ≤ s.abuf.length → s.abuf.length + need s.phaseRxf s.abuf ≤ bodyLen s.abuf + 7) := by
  obtain ⟨hp, hl⟩ | ⟨hp, hl⟩ | ⟨hp, hl⟩ := (rxPhaseOk_iff s).mp hok
  · have hn := abuf_length_add_need_hdr hok hp
    omega
  · have hn := abuf_length_add_need_body hok hp
    omega
  · have hn := need_chk hok hp
    omega

/-- ABUF of a consistent phase is all but the checksum of a frame, or less (R164). -/
theorem abuf_length_le (hok : s.rxPhaseOk = true) : s.abuf.length ≤ 261 := by
  have hb := bodyLen_le s.abuf
  obtain ⟨-, hl⟩ | ⟨-, -, hl⟩ | ⟨-, hl⟩ := (rxPhaseOk_iff s).mp hok <;> omega

/-- ABUF of a consistent phase holds no whole frame. -/
theorem cut_abuf (hok : s.rxPhaseOk = true) : cut s.abuf = ([], s.abuf) := by
  refine cut_incomplete ?_
  obtain ⟨-, hl⟩ | ⟨-, -, hl⟩ | ⟨-, hl⟩ := (rxPhaseOk_iff s).mp hok <;> omega

/-! ### What a read does -/

/-- A read of fewer bytes than the framer needs completes no part of the frame (R162). -/
theorem absorb_partial (hok : s.rxPhaseOk = true) (hr : r.length < need s.phaseRxf s.abuf) :
    absorb r s = { s with rxs := s.rxs.drop r.length, abuf := s.abuf ++ r } := by
  have hl : (s.abuf ++ r).length = s.abuf.length + r.length := List.length_append
  obtain ⟨heq, -⟩ | ⟨hp, hw, -⟩ | ⟨hp, hw, -⟩ | ⟨hp, hw, -⟩ :=
    advanceFramer_cases { s with rxs := s.rxs.drop r.length, abuf := s.abuf ++ r }
  case inl => exact heq
  all_goals
    exfalso
    simp only at hp hw
  · have hn := abuf_length_add_need_hdr hok hp
    omega
  · have hn := abuf_length_add_need_body hok hp
    rw [bodyLen_append (abuf_length_of_body hok hp).1] at hw
    omega
  · have hn := need_chk hok hp
    have ha := abuf_length_of_chk hok hp
    rw [bodyLen_append (by omega)] at hw
    omega

/-- Part of a header stays part of a header, and part of a body part of a body (R162). -/
theorem absorb_partial_rxPhaseOk (hok : s.rxPhaseOk = true) (hr : r.length < need s.phaseRxf s.abuf) :
    (absorb r s).rxPhaseOk = true := by
  have hl : (s.abuf ++ r).length = s.abuf.length + r.length := List.length_append
  rw [absorb_partial hok hr, rxPhaseOk_iff]
  obtain ⟨hp, -⟩ | ⟨hp, hb, -⟩ | ⟨hp, ha⟩ := (rxPhaseOk_iff s).mp hok
  · have hn := abuf_length_add_need_hdr hok hp
    exact .inl ⟨hp, by simp only; omega⟩
  · have hn := abuf_length_add_need_body hok hp
    refine .inr (.inl ⟨hp, by simp only; omega, ?_⟩)
    simp only [bodyLen_append hb]
    omega
  · have hn := need_chk hok hp
    obtain rfl : r = [] := List.length_eq_zero_iff.mp (by omega)
    exact .inr (.inr ⟨hp, by simpa only [List.append_nil] using ha⟩)

/-- The read that completes the header (R160, R163). -/
theorem absorb_header (hok : s.rxPhaseOk = true) (hp : s.phaseRxf = .hdr)
    (hr : r.length = need s.phaseRxf s.abuf) :
    absorb r s =
      { s with
        rxs := s.rxs.drop r.length, abuf := s.abuf ++ r
        phaseRxf := if bodyLen (s.abuf ++ r) = 0 then .chk else .body } := by
  have hwhole : (s.abuf ++ r).length = hdrLen := by
    rw [List.length_append, hr]
    exact abuf_length_add_need_hdr hok hp
  simp only [absorb, advanceFramer, hp, if_pos hwhole]

/-- The read that completes the body (R160). -/
theorem absorb_body (hok : s.rxPhaseOk = true) (hp : s.phaseRxf = .body)
    (hr : r.length = need s.phaseRxf s.abuf) :
    absorb r s = { s with rxs := s.rxs.drop r.length, abuf := s.abuf ++ r, phaseRxf := .chk } := by
  have hwhole : (s.abuf ++ r).length = hdrLen + bodyLen (s.abuf ++ r) := by
    rw [List.length_append, hr, bodyLen_append (abuf_length_of_body hok hp).1]
    exact abuf_length_add_need_body hok hp
  simp only [absorb, advanceFramer, hp, if_pos hwhole]

/-- A read of no more than the framer needs joins ABUF, which goes on agreeing with its phase, or completes a frame and
commits it (R160, R163, R165). -/
theorem absorb_cases (hok : s.rxPhaseOk = true) (hr : r.length ≤ need s.phaseRxf s.abuf) :
    ((∃ p, absorb r s = { s with rxs := s.rxs.drop r.length, abuf := s.abuf ++ r, phaseRxf := p }) ∧
      (absorb r s).rxPhaseOk = true) ∨
    ((s.abuf ++ r).length = 7 + bodyLen (s.abuf ++ r) ∧
      absorb r s = commit (s.abuf ++ r) { s with rxs := s.rxs.drop r.length, abuf := [], phaseRxf := .hdr }) := by
  have hl : (s.abuf ++ r).length = s.abuf.length + r.length := List.length_append
  obtain hlt | heq := Nat.lt_or_eq_of_le hr
  · exact .inl ⟨⟨s.phaseRxf, absorb_partial hok hlt⟩, absorb_partial_rxPhaseOk hok hlt⟩
  · obtain ⟨hp, -⟩ | ⟨hp, hb, -⟩ | ⟨hp, ha⟩ := (rxPhaseOk_iff s).mp hok
    · have hread := absorb_header hok hp heq
      have hn := abuf_length_add_need_hdr hok hp
      refine .inl ⟨⟨_, hread⟩, ?_⟩
      rw [hread, rxPhaseOk_iff]
      by_cases hempty : bodyLen (s.abuf ++ r) = 0
      · exact .inr (.inr ⟨if_pos hempty, by simp only; omega⟩)
      · exact .inr (.inl ⟨if_neg hempty, by simp only; omega⟩)
    · have hread := absorb_body hok hp heq
      have hn := abuf_length_add_need_body hok hp
      refine .inl ⟨⟨_, hread⟩, ?_⟩
      rw [hread, rxPhaseOk_iff]
      refine .inr (.inr ⟨rfl, ?_⟩)
      simp only [bodyLen_append hb]
      omega
    · obtain ⟨c, rfl⟩ := List.length_eq_one_iff.mp (heq.trans (need_chk hok hp))
      refine .inr ⟨?_, absorb_chk c hok hp⟩
      rw [bodyLen_append (by omega), hl, ha, List.length_singleton]
      omega

/-- ABUF goes on agreeing with its phase through a read (R164). -/
theorem absorb_rxPhaseOk (hok : s.rxPhaseOk = true) (hr : r.length ≤ need s.phaseRxf s.abuf) :
    (absorb r s).rxPhaseOk = true := by
  obtain ⟨-, h⟩ | ⟨-, h⟩ := absorb_cases hok hr
  · exact h
  · obtain ⟨_, _, _, hc⟩ :=
      commit_frame (s.abuf ++ r) { s with rxs := s.rxs.drop r.length, abuf := [], phaseRxf := .hdr }
    rw [h, hc]
    rfl

/-- ABUF goes on agreeing with its phase through RX_STEP (R164). -/
theorem effect_rx_rxPhaseOk (hok : s.rxPhaseOk = true) (he : Effect .rxStep s t) : t.rxPhaseOk = true := by
  cases he with
  | hold => exact hok
  | readError => rfl
  | read j as => exact absorb_rxPhaseOk (s := { s with rxAnswers := as }) hok (bytesRead_length j s)

/-- RX_STEP takes its bytes from the front of RXS, no more than the framer needs (R57, R164). -/
theorem effect_rx_rxs (he : Effect .rxStep s t) :
    ∃ c, s.rxs = c ++ t.rxs ∧ c.length ≤ need s.phaseRxf s.abuf := by
  cases he with
  | hold | readError => exact ⟨[], rfl, Nat.zero_le _⟩
  | read j as =>
    obtain ⟨_, _, _, _, _, h⟩ := absorb_frame (bytesRead j s) { s with rxAnswers := as }
    rw [h]
    exact ⟨bytesRead j s, (bytesRead_append j s).symm, bytesRead_length j s⟩

/-- The read of the checksum byte, with the frame it completes (R160, R165). -/
theorem exec_rxStep_chk {j : Nat} {as : List ReadAnswer} {c : Byte} {rest : Bytes} (hrun : s.run = true)
    (hok : s.rxPhaseOk = true) (hp : s.phaseRxf = .chk) (ha : s.rxAnswers = .upTo (j + 1) :: as)
    (hx : s.rxs = c :: rest) :
    exec .rxStep s =
      .next (commit (s.abuf ++ [c]) { s with rxAnswers := as, rxs := rest, abuf := [], phaseRxf := .hdr }) := by
  have hread : bytesRead (j + 1) s = [c] := by simp [bytesRead, need_chk hok hp, hx]
  rw [exec_rxStep_upTo hrun ha, hread, absorb_chk (s := { s with rxAnswers := as }) c hok hp]
  simp only [hx, List.drop_one, List.tail_cons]

/-! ### The cut of the stream (R169) -/

/-- A whole frame is cut into itself. -/
theorem cut_whole (h : f.length = 7 + bodyLen f) : cut f = ([f], []) := by
  simpa [show cut [] = ([], []) from rfl] using cut_frame [] h

/-- A frame with a good checksum and this marker, which COMMIT hands to the marker's buffer (R165, R167). -/
def validMarked (m : Byte) (f : Frame) : Bool := checksumMatches f && byteAt f 1 == m

/-- COMMIT appends the frame to SYNCBUF, when that is unbounded, exactly when it is valid with marker 0xFF (R167). -/
theorem commit_syncbuf (f : Frame) (hd : s.cfg.syncDepth = none) :
    (commit f s).syncbuf = s.syncbuf ++ [f].filter (validMarked 0xFF) := by
  obtain ⟨hc, h⟩ | ⟨hc, hm, h⟩ | ⟨hc, hm, h⟩ | ⟨hc, hm, h⟩ := commit_cases f s <;> rw [h]
  · simp [validMarked, hc]
  · simp [validMarked, hc, rxClass_eq_sync.mp hm, pushSync_eq, hd]
  · simp [validMarked, rxClass_eq_async.mp hm, pushAsync_eq]
  · simpa [validMarked, hc] using (rxClass_eq_other.mp hm).1

/-- COMMIT appends the frame to ASYNCBUF, when that is unbounded, exactly when it is valid with marker 0xFE (R167). -/
theorem commit_asyncbuf (f : Frame) (hd : s.cfg.asyncDepth = none) :
    (commit f s).asyncbuf = s.asyncbuf ++ [f].filter (validMarked 0xFE) := by
  obtain ⟨hc, h⟩ | ⟨hc, hm, h⟩ | ⟨hc, hm, h⟩ | ⟨hc, hm, h⟩ := commit_cases f s <;> rw [h]
  · simp [validMarked, hc]
  · simp [validMarked, rxClass_eq_sync.mp hm, pushSync_eq]
  · simp [validMarked, hc, rxClass_eq_async.mp hm, pushAsync_eq, hd]
  · simpa [validMarked, hc] using (rxClass_eq_other.mp hm).2

/-- From `s` to `t` the framer consumed the bytes `c` of RXS. The stream cut is what ABUF held followed by `c`: its valid
frames were appended to the buffers of their markers, and its rest is in ABUF (R169, R170). -/
structure CutsTo (s : State) (c : Bytes) (t : State) : Prop where
  stream : s.rxs = c ++ t.rxs
  rest : t.abuf = (cut (s.abuf ++ c)).2
  sync : t.syncbuf = s.syncbuf ++ (cut (s.abuf ++ c)).1.filter (validMarked 0xFF)
  async : t.asyncbuf = s.asyncbuf ++ (cut (s.abuf ++ c)).1.filter (validMarked 0xFE)

theorem CutsTo.refl (hok : s.rxPhaseOk = true) : CutsTo s [] s := by
  constructor <;> simp [cut_abuf hok]

/-- Two stretches of the stream cut one after the other are cut as one (R169). -/
theorem CutsTo.trans {u : State} {c d : Bytes} (h : CutsTo s c u) (h' : CutsTo u d t) : CutsTo s (c ++ d) t := by
  have hcut : cut (s.abuf ++ (c ++ d)) =
      ((cut (s.abuf ++ c)).1 ++ (cut (u.abuf ++ d)).1, (cut (u.abuf ++ d)).2) := by
    rw [← List.append_assoc, cut_append, ← h.rest]
  constructor
  · rw [h.stream, h'.stream, List.append_assoc]
  · rw [hcut, h'.rest]
  · rw [hcut, h'.sync, h.sync, List.filter_append, List.append_assoc]
  · rw [hcut, h'.async, h.async, List.filter_append, List.append_assoc]

/-- A read cuts the stream by the bytes it returns: it completes a frame, or holds what the cut leaves (R169). -/
theorem absorb_cutsTo (j : Nat) (hok : s.rxPhaseOk = true) (hsync : s.cfg.syncDepth = none)
    (hasync : s.cfg.asyncDepth = none) : CutsTo s (bytesRead j s) (absorb (bytesRead j s) s) := by
  have hstream := (bytesRead_append j s).symm
  generalize hr : bytesRead j s = r at hstream
  have hneed : r.length ≤ need s.phaseRxf s.abuf := hr ▸ bytesRead_length j s
  obtain ⟨⟨p, ha⟩, hok'⟩ | ⟨hwhole, ha⟩ := absorb_cases hok hneed
  · have hcut : cut (s.abuf ++ r) = ([], s.abuf ++ r) := by simpa [ha] using cut_abuf hok'
    rw [ha]
    constructor <;> simp [hcut, ← hstream]
  · have hcut := cut_whole hwhole
    obtain ⟨_, _, _, hframe⟩ :=
      commit_frame (s.abuf ++ r) { s with rxs := s.rxs.drop r.length, abuf := [], phaseRxf := .hdr }
    rw [ha]
    constructor
    · rw [hframe]
      exact hstream
    · rw [hframe, hcut]
    · rw [hcut]
      exact commit_syncbuf _ hsync
    · rw [hcut]
      exact commit_asyncbuf _ hasync

/-- A state from which R169 follows the framer: its phase is consistent, no read error is to come, and the buffers are
unbounded. -/
structure CutsFreely (s : State) : Prop where
  phase : s.rxPhaseOk = true
  noError : ReadAnswer.err ∉ s.rxAnswers
  syncUnbounded : s.cfg.syncDepth = none
  asyncUnbounded : s.cfg.asyncDepth = none

/-- RX_STEP cuts the stream by the bytes it consumes (R169). -/
theorem effect_rx_cutsTo (h : CutsFreely s) (he : Effect .rxStep s t) : ∃ c, CutsTo s c t := by
  cases he with
  | hold => exact ⟨[], .refl h.phase⟩
  | readError as _ _ ha => exact absurd (ha ▸ List.mem_cons_self) h.noError
  | read j as =>
    have hread := absorb_cutsTo (s := { s with rxAnswers := as }) j h.phase h.syncUnbounded h.asyncUnbounded
    exact ⟨_, { hread with }⟩

/-- RX_STEP only takes an answer from the transport's list. -/
theorem effect_rx_answers (he : Effect .rxStep s t) : t.rxAnswers ⊆ s.rxAnswers := by
  cases he with
  | hold => exact List.Subset.refl _
  | readError as _ _ ha => exact ha ▸ List.subset_cons_self _ _
  | read j as _ _ ha =>
    obtain ⟨_, _, _, _, _, h⟩ := absorb_frame (bytesRead j s) { s with rxAnswers := as }
    rw [h, ha]
    exact List.subset_cons_self _ _

theorem effect_rx_cutsFreely (h : CutsFreely s) (he : Effect .rxStep s t) : CutsFreely t where
  phase := effect_rx_rxPhaseOk h.phase he
  noError hm := h.noError (effect_rx_answers he hm)
  syncUnbounded := (effect_label_cfg_run (l := .rx) he).1 ▸ h.syncUnbounded
  asyncUnbounded := (effect_label_cfg_run (l := .rx) he).1 ▸ h.asyncUnbounded

/-- However many reads there are and whatever each returns, together they cut the bytes consumed (R169, R170). -/
theorem runSteps_cutsTo {n : Nat} {ms : List Move} (h : CutsFreely s)
    (hs : s.sched = List.replicate n (.agent .rx) ++ ms) (hrun : runSteps n s = .next t) : ∃ c, CutsTo s c t := by
  induction n generalizing s with
  | zero =>
    cases hrun
    exact ⟨[], .refl h.phase⟩
  | succ n ih =>
    obtain ⟨u, hstep, hrest⟩ := runSteps_succ_inv hrun
    have he : Effect .rxStep (actAs s.actor (scheduled (List.replicate n (.agent .rx) ++ ms) s)) u :=
      effect_of_exec ((step_eq hs).symm.trans hstep)
    have h' : CutsFreely (actAs s.actor (scheduled (List.replicate n (.agent .rx) ++ ms) s)) := { h with }
    have hsched : u.sched = List.replicate n (.agent .rx) ++ ms := by
      rw [step_sched hstep, hs]
      rfl
    obtain ⟨c, hc⟩ := effect_rx_cutsTo h' he
    obtain ⟨d, hd⟩ := ih (effect_rx_cutsFreely h' he) hsched hrest
    exact ⟨c ++ d, CutsTo.trans { hc with } hd⟩

end

/-! ### The statements -/

/-- Settles O24, by induction on the number of reads: each cuts the stream on from where the one before left it. -/
theorem framerCutsTheStream : Obligations.FramerCutsTheStream := by
  intro n s t ms _ hp ha herr hsync hasync hs hrun
  have hok : s.rxPhaseOk = true := (rxPhaseOk_iff s).mpr (.inl ⟨hp, by simp [ha]⟩)
  obtain ⟨c, hx, hrest, hs, has⟩ := runSteps_cutsTo ⟨hok, herr, hsync, hasync⟩ hs hrun
  rw [ha, List.nil_append] at hrest hs has
  exact ⟨c, hx, hrest, hs, has⟩

/-- Settles O23: the phase fixes what the framer needs, and RX_STEP keeps ABUF in agreement with it. -/
theorem framerNeverOverReads : Obligations.FramerNeverOverReads := by
  intro s t hok hexec
  have he := effect_of_exec hexec
  obtain ⟨hhdr, hrest⟩ := abuf_length_add_need hok
  have hle := abuf_length_le (effect_rx_rxPhaseOk hok he)
  exact ⟨need_pos hok, hhdr, hrest, effect_rx_rxs he, by omega⟩

/-- Settles O16: a short read completes no part; without an answer or without RUN the step is disabled. -/
theorem partialReadKeepsPhase : Obligations.PartialReadKeepsPhase := by
  refine ⟨fun s j as r hrun hok ha hr hlt => ?_, fun s h => disabledStepHolds _ s ?_⟩
  · obtain rfl : r = bytesRead j s := hr
    rw [exec_rxStep_upTo hrun ha, absorb_partial (s := { s with rxAnswers := as }) hok hlt]
  · obtain h | h := h <;> simp [enables, h]

/-- Settles O17: the read that ends the header, and the one that ends the body. -/
theorem completedPartMovesPhase : Obligations.CompletedPartMovesPhase := by
  intro s j as r hrun hok ha hr hlen
  obtain rfl : r = bytesRead j s := hr
  rw [exec_rxStep_upTo hrun ha]
  refine ⟨fun hp => ?_, fun hp => ?_⟩
  · rw [absorb_header (s := { s with rxAnswers := as }) hok hp hlen]
    rfl
  · rw [absorb_body (s := { s with rxAnswers := as }) hok hp hlen]

/-- Settles O18: the completed frame's last byte is not the checksum of what stands before it. -/
theorem checksumMismatchDropsFrame : Obligations.ChecksumMismatchDropsFrame := by
  intro s j as c rest hrun hok hp ha hx hc
  have hlen := abuf_length_of_chk hok hp
  have hbad : checksumMatches (s.abuf ++ [c]) = false :=
    (checksumMatches_append_singleton c (by omega)).trans (beq_false_of_ne hc)
  rw [exec_rxStep_chk hrun hok hp ha hx, commit_of_mismatch hbad]
  rfl

/-- Settles O19: the completed frame's checksum holds, and ROUTE reads the marker that ABUF already held. -/
theorem markerRoutesCompletedFrame : Obligations.MarkerRoutesCompletedFrame := by
  intro s j as c rest hrun hok hp ha hx hc
  have hlen := abuf_length_of_chk hok hp
  have hgood : checksumMatches (s.abuf ++ [c]) = true :=
    (checksumMatches_append_singleton c (by omega)).trans (beq_iff_eq.mpr hc)
  have hmark : byteAt (s.abuf ++ [c]) 1 = byteAt s.abuf 1 := byteAt_append_left (by omega)
  rw [exec_rxStep_chk hrun hok hp ha hx, commit_of_match hgood, ← hmark]
  refine ⟨fun hm => ?_, fun hm => ?_, fun hm hm' => ?_⟩
  · rw [route_sync hm, pushSync_eq]
  · rw [route_async hm, pushAsync_eq]
  · rw [route_other hm hm']
    rfl

/-- Settles O20: with RUN = 1 the push onto SYNCBUF or the dropped mismatch; with RUN = 0 the step is disabled. -/
theorem frameRxSyncReachesSyncbuf : Obligations.FrameRxSyncReachesSyncbuf := by
  refine fun f s => ⟨fun hr hc => ?_, fun hr hc => ?_, disabledStepHolds (.frameRxSync f) s⟩
  · rw [exec_frameRxSync f hr, ifValid_of_match hc, pushSync_eq]
  · rw [exec_frameRxSync f hr, ifValid_of_mismatch hc]
    rfl

/-- Settles O21: with RUN = 1 the push onto ASYNCBUF or the dropped mismatch; with RUN = 0 the step is disabled. -/
theorem frameRxAsyncReachesAsyncbuf : Obligations.FrameRxAsyncReachesAsyncbuf := by
  refine fun f s => ⟨fun hr hc => ?_, fun hr hc => ?_, disabledStepHolds (.frameRxAsync f) s⟩
  · rw [exec_frameRxAsync f hr, ifValid_of_match hc, pushAsync_eq]
  · rw [exec_frameRxAsync f hr, ifValid_of_mismatch hc]
    rfl

/-- Settles O22: with RUN = 1 a valid frame only leaves its marker in the trace; with RUN = 0 the step is disabled. -/
theorem frameRxOtherIsDropped : Obligations.FrameRxOtherIsDropped := by
  refine fun f s => ⟨fun hr hc => ?_, fun hr hc => ?_, disabledStepHolds (.frameRxOther f) s⟩
  · rw [exec_frameRxOther f hr, ifValid_of_match hc]
    rfl
  · rw [exec_frameRxOther f hr, ifValid_of_mismatch hc]
    rfl

end Sys2Proof.Machine
end

section
/-! PROOFS. The synchronous collector (43_sync_collector.md): what SYNC_REQ and SYNC_POLL do under each of their
conditions, the moves of a caller in a SYNC_REQ, and a poll budget spent without a match (R205). -/

namespace Sys2Proof.Machine

section
variable {s : State} {k n : Nat} {ms : List Move} {prog : List HostOp} {w : Frame}

/-! ### SYNC_REQ -/

theorem exec_syncReq_room (w : Frame) (h : s.txq.length < s.cfg.txqDepth) :
    exec (.syncReq w) s = .next (setStatus (.waiting ⟨.poll, w, 0⟩) (enqueue w s)) :=
  if_pos ((txqHasRoom_iff s).mpr h)

theorem exec_syncReq_full (w : Frame) (h : s.cfg.txqDepth ≤ s.txq.length) :
    exec (.syncReq w) s = .next (setStatus (.waiting ⟨.send, w, 0⟩) s) :=
  if_neg ((txqHasRoom_iff s).not.mpr (Nat.not_lt.mpr h))

/-! ### The scan -/

/-- `Match(e, w)` as R201 words it. -/
theorem matchesKey_seqByte_eq_false_iff {m : Nat} {x : Frame} :
    matchesKey m (seqByte w) x = false ↔ ¬(byteAt x 4 = byteAt w 4 ∧ m < x.length) := by
  rw [← Bool.not_eq_true, matchesKey_iff, seqByte]

/-- No entry of SYNCBUF matches the frame `w` (R201). -/
def NoMatch (w : Frame) (s : State) : Prop :=
  ∀ x ∈ s.syncbuf, ¬(byteAt x 4 = byteAt w 4 ∧ s.cfg.syncLenThreshold < x.length)

theorem takeFirst_of_noMatch (h : NoMatch w s) :
    takeFirst (matchesKey s.cfg.syncLenThreshold (seqByte w)) s.syncbuf = none :=
  takeFirst_eq_none.mpr fun x hx => matchesKey_seqByte_eq_false_iff.mpr (h x hx)

/-! ### SYNC_POLL -/

/-- A poll whose scan finds `e` returns it and frees its caller; the order of the entries left is a draw (R203, R204). -/
theorem exec_syncPoll_hit {e : Frame} {rest : List Frame}
    (hc : s.callers[s.actor]? = some ⟨prog, .waiting ⟨.poll, w, n⟩⟩)
    (ht : takeFirst (matchesKey s.cfg.syncLenThreshold (seqByte w)) s.syncbuf = some (e, rest)) :
    exec .syncPoll s =
      .next { s with
        syncbuf := permute (Config.freePermutation s.draws) rest, draws := s.draws + 1
        callers := s.callers.set s.actor ⟨prog, .idle⟩
        results := s.results ++ [⟨s.actor, 0x00 :: e⟩] } := by
  have hexec : exec .syncPoll s = .next (pollHit e rest s) := by
    simp only [exec, execSyncPoll, pollingWaiter_eq_some.mpr ⟨rfl, prog, hc⟩, ht]
  rw [hexec, pollHit, setStatus_eq (prog := prog) .idle]
  · rfl
  · exact hc

/-- The last poll of the budget, without a match (R203, R205). -/
theorem exec_syncPoll_timeout (hc : s.callers[s.actor]? = some ⟨prog, .waiting ⟨.poll, w, n⟩⟩) (hno : NoMatch w s)
    (hn : n + 1 = 500) :
    exec .syncPoll s =
      .next { s with
        trace := s.trace ++ [.syncTimeout]
        callers := s.callers.set s.actor ⟨prog, .idle⟩
        results := s.results ++ [⟨s.actor, [0x07]⟩] } := by
  have hexec : exec .syncPoll s = .next (pollTimeout s) := by
    simp only [exec, execSyncPoll, pollingWaiter_eq_some.mpr ⟨rfl, prog, hc⟩, takeFirst_of_noMatch hno, if_pos hn]
  rw [hexec, pollTimeout, setStatus_eq (s := raise .syncTimeout s) .idle hc]
  rfl

/-- Any other poll without a match counts (R203). -/
theorem exec_syncPoll_counts (hc : s.callers[s.actor]? = some ⟨prog, .waiting ⟨.poll, w, n⟩⟩) (hno : NoMatch w s)
    (hn : n + 1 ≠ 500) :
    exec .syncPoll s = .next { s with callers := s.callers.set s.actor ⟨prog, .waiting ⟨.poll, w, n + 1⟩⟩ } := by
  have hexec : exec .syncPoll s = .next (setStatus (.waiting ⟨.poll, w, n + 1⟩) s) := by
    simp only [exec, execSyncPoll, pollingWaiter_eq_some.mpr ⟨rfl, prog, hc⟩, takeFirst_of_noMatch hno, if_neg hn]
  rw [hexec, setStatus_eq _ hc]

/-- A caller without a waiter in `W_POLL` has no poll to make (R203). -/
theorem pollingWaiter_eq_none (h : ∀ prog w n, s.callers[s.actor]? ≠ some ⟨prog, .waiting ⟨.poll, w, n⟩⟩) :
    pollingWaiter s = none := by
  refine Option.eq_none_iff_forall_not_mem.mpr fun ⟨ph, w, n⟩ hw => ?_
  obtain ⟨hp, prog, hc⟩ := pollingWaiter_eq_some.mp hw
  cases hp
  exact h prog w n hc

/-! ### A held SYNC_REQ -/

/-- On a full queue the retry only sets the status the caller already has (R200). -/
theorem hostMove_send_full (hc : s.callers[s.actor]? = some ⟨prog, .waiting ⟨.send, w, 0⟩⟩)
    (hfull : s.cfg.txqDepth ≤ s.txq.length) : hostMove s = .next s := by
  rw [hostMove_send hc, exec_syncReq_full w hfull, setStatus_same hc]

/-- With room the retry queues the frame, and its polls begin (R200). -/
theorem hostMove_send_room (hc : s.callers[s.actor]? = some ⟨prog, .waiting ⟨.send, w, n⟩⟩)
    (hroom : s.txq.length < s.cfg.txqDepth) :
    hostMove s =
      .next { s with
        txq := s.txq ++ [w]
        callers := s.callers.set s.actor ⟨prog, .waiting ⟨.poll, w, 0⟩⟩ } := by
  rw [hostMove_send hc, exec_syncReq_room w hroom, setStatus_eq (s := enqueue w s) _ hc]
  rfl

/-! ### The steps of the schedule -/

/-- A poll's step is SYNC_POLL of its caller (R80). -/
theorem step_poll (hs : s.sched = .agent (.poll k) :: ms) :
    step s = exec .syncPoll (actAs k (scheduled ms s)) := step_eq hs

/-- A caller's step is its move. -/
theorem step_host (hs : s.sched = .host k :: ms) : step s = hostMove (actAs k (scheduled ms s)) := step_eq hs

/-- With `n` polls done, `m + 1` left and no match in SYNCBUF, those polls spend the budget: all but the last only count,
and the last returns the empty result (R203, R205). -/
theorem runSteps_poll_budget {m : Nat} (hn : n + (m + 1) = 500)
    (hc : s.callers[k]? = some ⟨prog, .waiting ⟨.poll, w, n⟩⟩) (hno : NoMatch w s)
    (hs : s.sched = List.replicate (m + 1) (.agent (.poll k)) ++ ms) :
    runSteps (m + 1) s =
      .next { s with
        sched := ms, actor := k
        callers := s.callers.set k ⟨prog, .idle⟩
        trace := s.trace ++ [.syncTimeout]
        results := s.results ++ [⟨k, [0x07]⟩] } := by
  induction m generalizing s n with
  | zero => exact runSteps_succ 0 ((step_poll hs).trans (exec_syncPoll_timeout hc hno hn))
  | succ m ih =>
    have hstep := (step_poll hs).trans (exec_syncPoll_counts hc hno (by omega))
    obtain ⟨hk, -⟩ := List.getElem?_eq_some_iff.mp hc
    rw [runSteps_succ (m + 1) hstep]
    refine (ih (n := n + 1) (by omega) (List.getElem?_set_self hk) ?_ rfl).trans ?_
    · exact hno
    · simp only [actAs, scheduled, List.set_set]

end

/-! ### The statements -/

/-- Settles O28: the polls left are one more than some `m`, and they spend the budget. -/
theorem pollBudgetEndsInEmptyResult : Obligations.PollBudgetEndsInEmptyResult := by
  intro s k n ms prog w hn hc hno hs
  obtain ⟨m, hm⟩ : ∃ m, 500 - n = m + 1 := ⟨499 - n, by omega⟩
  rw [hm] at hs ⊢
  exact runSteps_poll_budget (by omega) hc hno hs

/-- Settles O25: both sides of the queue's depth. -/
theorem syncReqQueuesAndWaits : Obligations.SyncReqQueuesAndWaits :=
  fun w _ => ⟨exec_syncReq_room w, exec_syncReq_full w, rfl⟩

/-- Settles O26: the scan's first match, the scan without a match on either side of the budget, and no waiter. -/
theorem syncPollScansOnce : Obligations.SyncPollScansOnce := by
  refine ⟨fun s prog w n hc => ⟨fun a b e hbuf hbefore hkey hlen => ?_,
      fun hno => ⟨exec_syncPoll_timeout hc hno, exec_syncPoll_counts hc hno⟩⟩,
    fun s h => disabledStepHolds _ s (by simp [enables, pollingWaiter_eq_none h])⟩
  have hscan : takeFirst (matchesKey s.cfg.syncLenThreshold (seqByte w)) s.syncbuf = some (e, a ++ b) :=
    takeFirst_eq_some.mpr ⟨a, b, hbuf, fun x hx => matchesKey_seqByte_eq_false_iff.mpr (hbefore x hx),
      (matchesKey_iff _ _ e).mpr ⟨hkey, hlen⟩, rfl⟩
  exact ⟨_, permute_perm _ (a ++ b), exec_syncPoll_hit hc hscan⟩

/-- Settles O59: the step is the caller's move, which retries in `W_SEND` and otherwise waits. -/
theorem waitingCallerMoves : Obligations.WaitingCallerMoves := by
  intro s k ms hs
  rw [step_host hs]
  exact ⟨fun _ _ hc => ⟨hostMove_send_full (s := actAs k (scheduled ms s)) hc,
      hostMove_send_room (s := actAs k (scheduled ms s)) hc⟩,
    fun _ _ _ hc => hostMove_poll (s := actAs k (scheduled ms s)) hc,
    fun hc => hostMove_done (s := actAs k (scheduled ms s)) hc,
    fun hc => hostMove_none (s := actAs k (scheduled ms s)) hc⟩

end Sys2Proof.Machine
end

section
/-! PROOFS. The asynchronous dispatcher (44_async_dispatch.md): what CLASSIFY, TICK, ASYNC_STEP and the async shapes do
under each of their conditions, and a drain of any length (R235). -/

namespace Sys2Proof.Machine

section
variable {s : State} {e : Frame} {l : List Frame} {ms : List Move}

/-! ### CLASSIFY -/

theorem shapeOf_eq_collision {k : Nat} (hlen : e.length = 22) (htag : e[k]? = some 17) : shapeOf k e = .collision :=
  if_pos ⟨hlen, htag⟩

theorem shapeOf_eq_sample {k : Nat} (hlen : e.length = 90) : shapeOf k e = .sample :=
  (if_neg fun h => by simp [hlen] at h).trans (if_pos hlen)

theorem shapeOf_eq_other {k : Nat} (hlen : e.length ≠ 90) (htag : ¬(e.length = 22 ∧ e[k]? = some 17)) :
    shapeOf k e = .other :=
  (if_neg htag).trans (if_neg hlen)

theorem classify_collision (h : shapeOf s.cfg.collTagIndex e = .collision) : classify e s = emit .collision e s := by
  simp only [classify, h]

theorem classify_sample (h : shapeOf s.cfg.collTagIndex e = .sample) : classify e s = emit .sensordata e s := by
  simp only [classify, h]

theorem classify_other (h : shapeOf s.cfg.collTagIndex e = .other) :
    classify e s = raise (.asyncUnrecognisedShape e.length) s := by
  simp only [classify, h]

/-! ### TICK -/

theorem tickDrain_of_run (h : s.run = true) : s.tickDrain = { s with drain := true } := by
  simp [State.tickDrain, h]

theorem tickDrain_of_not_run (h : s.run = false) : s.tickDrain = s := by
  have hdrain : (s.run || s.drain) = s.drain := by rw [h, Bool.false_or]
  rw [State.tickDrain, hdrain]

/-! ### ASYNC_STEP -/

theorem exec_asyncStep_pop (hr : s.run = true) (hd : s.drain = true) (hl : s.asyncbuf = l ++ [e]) :
    exec .asyncStep s = .next (classify e { s with asyncbuf := l }) := by
  simp [exec, execAsyncStep, (drainReady_iff s).mpr ⟨hr, hd⟩, hl]

theorem exec_asyncStep_empty (hr : s.run = true) (hd : s.drain = true) (hl : s.asyncbuf = []) :
    exec .asyncStep s = .next { s with drain := false } := by
  simp [exec, execAsyncStep, (drainReady_iff s).mpr ⟨hr, hd⟩, hl]

/-- Without RUN or without DRAIN the dispatcher is not ready (R232). -/
theorem drainReady_eq_false (h : s.run = false ∨ s.drain = false) : s.drainReady = false :=
  Bool.and_eq_false_iff.mpr h

/-! ### A drain -/

/-- The dispatcher's step is ASYNC_STEP, and belongs to no caller (R80). -/
theorem step_async (hs : s.sched = .agent .async :: ms) : step s = exec .asyncStep (scheduled ms s) := step_eq hs

/-- With ASYNCBUF `b`, `b.length + 1` steps take its frames from the newest on, and the last ends the drain (R235). -/
theorem runSteps_drain {b : List Frame} (hr : s.run = true) (hd : s.drain = true) (hb : s.asyncbuf = b)
    (hs : s.sched = List.replicate (b.length + 1) (.agent .async) ++ ms) :
    runSteps (b.length + 1) s =
      .next { s with
        sched := ms, asyncbuf := [], drain := false
        evlog := s.evlog ++ b.reverse.filterMap (eventOf s.cfg.collTagIndex)
        trace := s.trace ++ b.reverse.filterMap (discardOf s.cfg.collTagIndex) } := by
  induction b using List.reverseRecOn generalizing s with
  | nil =>
    have hstep := (step_async hs).trans (exec_asyncStep_empty hr hd hb)
    exact (runSteps_succ 0 hstep).trans (by simp [runSteps, scheduled, hb])
  | append_singleton b e ih =>
    rw [List.length_append] at hs ⊢
    have hstep := (step_async hs).trans (exec_asyncStep_pop hr hd hb)
    rw [classify_eq] at hstep
    refine (runSteps_succ (b.length + 1) hstep).trans ((ih ?_ ?_ rfl rfl).trans ?_)
    · exact hr
    · exact hd
    · simp [scheduled, List.filterMap_eq_flatMap_toList]

end

/-! ### The statements -/

/-- Settles O33: the run of the drain, at ASYNCBUF itself. -/
theorem drainIsLastInFirstOut : Obligations.DrainIsLastInFirstOut :=
  fun _ _ hr hd hs => runSteps_drain hr hd rfl hs

/-- Settles O29: TICK's write of DRAIN on both sides of RUN, then the empty result. -/
theorem tickStartsDrain : Obligations.TickStartsDrain := by
  refine fun s => ⟨fun hr => ?_, fun hr => ?_, rfl⟩
  · exact congrArg (Host.Outcome.next ∘ answer []) (tickDrain_of_run hr)
  · exact congrArg (Host.Outcome.next ∘ answer []) (tickDrain_of_not_run hr)

/-- Settles O30: a pop is CLASSIFY of the newest frame, an empty buffer ends the drain, and otherwise ASYNC_STEP is
disabled. -/
theorem asyncStepPopsNewestOrEndsDrain : Obligations.AsyncStepPopsNewestOrEndsDrain := by
  refine ⟨fun s l e hr hd hl => ?_, fun s => exec_asyncStep_empty,
    fun s h => disabledStepHolds .asyncStep s (drainReady_eq_false h)⟩
  rw [exec_asyncStep_pop hr hd hl, classify_eq]

/-- Settles O31: the popped frame's shape decides what CLASSIFY does. -/
theorem classifyByLengthAndTag : Obligations.ClassifyByLengthAndTag := by
  intro s l e hr hd hl
  rw [exec_asyncStep_pop hr hd hl]
  exact ⟨fun hlen htag => congrArg _ (classify_collision (shapeOf_eq_collision hlen htag)),
    fun hlen => congrArg _ (classify_sample (shapeOf_eq_sample hlen)),
    fun hlen htag => congrArg _ (classify_other (shapeOf_eq_other hlen htag))⟩

/-- Settles O32: in a drain the guard holds and each shape does its one thing; outside one each step is disabled. -/
theorem asyncShapesEmitOrDiscard : Obligations.AsyncShapesEmitOrDiscard := by
  refine fun e s => ⟨fun hr hd => ?_, fun h => ?_⟩
  · have hready : s.drainReady = true := (drainReady_iff s).mpr ⟨hr, hd⟩
    exact ⟨if_pos hready, if_pos hready, if_pos hready⟩
  · have hdis : s.drainReady = false := drainReady_eq_false h
    exact ⟨disabledStepHolds (.asyncCollision e) s hdis, disabledStepHolds (.asyncSample e) s hdis,
      disabledStepHolds (.asyncOther e) s hdis⟩

end Sys2Proof.Machine
end

section
/-! PROOFS. Control (45_control.md): what START does, and that a second one has no effect on the engine (R261). -/

namespace Sys2Proof.Machine

theorem exec_start (s : State) : exec .start s = .next (answer [] s.startRun) := rfl

theorem startRun_of_run {s : State} (h : s.run = true) : s.startRun = s := by
  rw [State.startRun, ← h]

/-- Settles O34: the write of RUN and the empty result, the write changing nothing where RUN is set, and the code. -/
theorem startSetsRunOnly : Obligations.StartSetsRunOnly := by
  refine ⟨exec_start, fun s h => ?_, rfl⟩
  rw [exec_start, startRun_of_run h, answer]

end Sys2Proof.Machine
end

section
/-! PROOFS. Exceptions (60_exceptions.md): no instruction and no step halts the machine (R290), what one step adds to
the cause trace (R288, R289), what sets the refusal mark (R287), and a failed read (R283). -/

namespace Sys2Proof.Machine

section
variable {s t : State}

/-! ### The cause trace -/

/-- From `s` to `t` the cause trace grew by at most one cause (R288, R289). -/
def RaisesAtMostOne (s t : State) : Prop :=
  t.trace = s.trace ∨ ∃ c, t.trace = s.trace ++ [c]

theorem raisesAtMostOne_of_toList {o : Option Cause} (h : t.trace = s.trace ++ o.toList) : RaisesAtMostOne s t := by
  cases o with
  | none => exact .inl (h.trans (List.append_nil _))
  | some c => exact .inr ⟨c, h⟩

theorem pushSync_raisesAtMostOne (f : Frame) (s : State) : RaisesAtMostOne s (pushSync f s) := by
  unfold pushSync
  split
  · exact .inr ⟨_, rfl⟩
  · exact .inl rfl

theorem pushAsync_raisesAtMostOne (f : Frame) (s : State) : RaisesAtMostOne s (pushAsync f s) := by
  unfold pushAsync
  split
  · exact .inr ⟨_, rfl⟩
  · exact .inl rfl

/-- A frame that fails validation raises the mismatch and goes no further, so nothing it is passed on to adds a second
cause (R166). -/
theorem ifValid_raisesAtMostOne {f : Frame} {pass : State → State} (h : RaisesAtMostOne s (pass s)) :
    RaisesAtMostOne s (ifValid f pass s) := by
  unfold ifValid
  split
  · exact h
  · exact .inr ⟨_, rfl⟩

theorem route_raisesAtMostOne (f : Frame) (s : State) : RaisesAtMostOne s (route f s) := by
  unfold route
  split
  · exact pushSync_raisesAtMostOne f s
  · exact pushAsync_raisesAtMostOne f s
  · exact .inr ⟨_, rfl⟩

/-- Only the read that completes a frame can raise a cause, and it raises COMMIT's (R160, R165). -/
theorem absorb_raisesAtMostOne (r : Bytes) (s : State) : RaisesAtMostOne s (absorb r s) := by
  unfold absorb
  obtain ⟨h, -⟩ | ⟨-, -, h⟩ | ⟨-, -, h⟩ | ⟨-, -, h⟩ :=
    advanceFramer_cases { s with rxs := s.rxs.drop r.length, abuf := s.abuf ++ r } <;> rw [h]
  · exact .inl rfl
  · exact .inl rfl
  · exact .inl rfl
  · exact ifValid_raisesAtMostOne (route_raisesAtMostOne (s.abuf ++ r) _)

theorem writeFrame_raisesAtMostOne (f : Frame) (a : WriteAnswer) (s : State) :
    RaisesAtMostOne s (writeFrame f a s) := by
  obtain ⟨-, h⟩ | ⟨-, h⟩ | ⟨n, -, -, -, h⟩ := writeFrame_cases f a s <;> rw [h]
  · exact .inl rfl
  · exact .inr ⟨_, rfl⟩
  · exact .inr ⟨_, rfl⟩

theorem classify_raisesAtMostOne (e : Frame) (s : State) : RaisesAtMostOne s (classify e s) := by
  rw [classify_eq]
  exact raisesAtMostOne_of_toList rfl

/-- No instruction raises two causes (R289). -/
theorem effect_raisesAtMostOne {i : Instr} (he : Effect i s t) : RaisesAtMostOne s t := by
  cases he with
  | hold | cksum | encode | decodeValid | send | sendHolds | syncReq | syncReqHolds | tick | start | take | pollHit
    | pollCounts | drainEnds | collision | sample => exact .inl rfl
  | encodeTooLong | decodeLength | decodeChecksum | readError | pollTimeout | reserved | other => exact .inr ⟨_, rfl⟩
  | write f a as | frameTx f a as => exact writeFrame_raisesAtMostOne f a { s with txAnswers := as }
  | read j as => exact absorb_raisesAtMostOne (bytesRead j s) { s with rxAnswers := as }
  | dispatch l e => exact classify_raisesAtMostOne e { s with asyncbuf := l }
  | frameRxSync f => exact ifValid_raisesAtMostOne (pushSync_raisesAtMostOne f s)
  | frameRxAsync f => exact ifValid_raisesAtMostOne (pushAsync_raisesAtMostOne f s)
  | frameRxOther => exact ifValid_raisesAtMostOne (.inr ⟨_, rfl⟩)

theorem hostEffect_raisesAtMostOne (he : HostEffect s t) : RaisesAtMostOne s t := by
  cases he with
  | waits | passes => exact .inl rfl
  | retriesSend _ _ _ _ he | retriesSyncReq _ _ _ _ _ he => exact effect_raisesAtMostOne he
  | issues _ _ _ _ _ _ he => exact effect_raisesAtMostOne (s := dropOperation s) he
  | refused | passesNothing => exact .inr ⟨_, rfl⟩

theorem moveEffect_raisesAtMostOne {m : Move} (he : MoveEffect s m t) : RaisesAtMostOne s t := by
  cases he with
  | host k _ he => exact hostEffect_raisesAtMostOne (s := actAs k s) he
  | agent l _ he => exact effect_raisesAtMostOne (s := actAs (l.actor s) s) he
  | transport x => obtain ⟨_, _, _, h⟩ := transportInput_frame x s; exact .inl (by rw [h])
  | reset => exact .inl rfl

/-! ### The refusal mark -/

/-- A host operation keeps the refusal mark or is refused, and a refusal is all it then does (R287). -/
theorem effect_host_refusal {i : Instr} (hi : i.layer = .host) (he : Effect i s t) :
    t.refusal = s.refusal ∨ ∃ c, t = refuse c s := by
  cases he with
  | hold | cksum | encode | decodeLength | decodeChecksum | decodeValid | send | sendHolds | syncReq | syncReqHolds
    | tick | start => exact .inl rfl
  | encodeTooLong | reserved => exact .inr ⟨_, rfl⟩
  | _ => simp [Instr.layer] at hi

/-- A host caller's move keeps the refusal mark or refuses the operation it moves past; a retried SEND or SYNC_REQ is
never refused (R131, R200, R287). -/
theorem hostEffect_refusal (he : HostEffect s t) :
    t.refusal = s.refusal ∨ ∃ c, t = refuse c (dropOperation s) := by
  cases he with
  | waits | passes => exact .inl rfl
  | retriesSend _ _ _ _ he | retriesSyncReq _ _ _ _ _ he => cases he <;> exact .inl rfl
  | issues _ _ _ _ _ hd he => exact effect_host_refusal (decodeHost_layer hd) he
  | refused | passesNothing => exact .inr ⟨_, rfl⟩

/-- No agent's step writes the refusal mark (R287). -/
theorem effect_label_refusal {l : Label} (he : Effect l.instr s t) : t.refusal = s.refusal := by
  cases l with
  | txTake => obtain ⟨_, _, _, rfl⟩ := effect_take_frame he; rfl
  | txWrite => obtain ⟨_, _, _, _, _, _, _, _, -, rfl⟩ := effect_write_frame he; rfl
  | rx => obtain ⟨_, _, _, _, _, _, _, rfl⟩ := effect_rx_frame he; rfl
  | poll k => obtain ⟨_, _, _, _, _, -, rfl⟩ := effect_poll_frame he; rfl
  | async => obtain ⟨_, _, _, _, -, rfl⟩ := effect_async_frame he; rfl

/-- A move keeps the refusal mark, Reset too (log 18), or is a host caller's whose operation is refused (R287). -/
theorem moveEffect_refusal {m : Move} (he : MoveEffect s m t) :
    t.refusal = s.refusal ∨ ∃ k c, m = .host k ∧ t = refuse c (dropOperation (actAs k s)) := by
  cases he with
  | host k _ he =>
    obtain h | ⟨c, h⟩ := hostEffect_refusal he
    · exact .inl h
    · exact .inr ⟨k, c, rfl, h⟩
  | agent l _ he => exact .inl (effect_label_refusal (s := actAs (l.actor s) s) he)
  | transport x => obtain ⟨_, _, _, h⟩ := transportInput_frame x s; exact .inl (by rw [h])
  | reset => exact .inl rfl

/-- Moving past an operation leaves what every caller holds in. -/
theorem dropOperation_statuses (s : State) :
    (dropOperation s).callers.map Caller.status = s.callers.map Caller.status := by
  refine List.ext_getElem? fun j => ?_
  rw [dropOperation_callers, List.getElem?_map, List.getElem?_modify, List.getElem?_map]
  cases s.callers[j]? with
  | none => rfl
  | some c => by_cases h : s.actor = j <;> simp [h]

/-- A refused operation writes nothing but the schedule, the actor, its caller's program, the trace and the mark
(R287). -/
theorem refuse_dropOperation_frame (c : Cause) (k : Nat) (ms : List Move) (s : State) :
    { refuse c (dropOperation (actAs k (scheduled ms s))) with
      sched := s.sched, actor := s.actor, callers := s.callers, trace := s.trace, refusal := s.refusal } = s := by
  cases s
  rfl

/-! ### A failed read -/

theorem exec_rxStep_err {as : List ReadAnswer} (hr : s.run = true) (ha : s.rxAnswers = .err :: as) :
    exec .rxStep s = .next (readError { s with rxAnswers := as }) := by
  simp only [exec, execRxStep, hr, ha, if_true]

end

/-! ### The statements -/

/-- Settles O47: the two inversion lemmas give the next state of an instruction and of a move. -/
theorem nothingHaltsTheMachine : Obligations.NothingHaltsTheMachine := by
  refine ⟨fun i s => ?_, fun s => ?_⟩
  · obtain ⟨t, ht, -⟩ := exec_effect i s
    exact ⟨t, ht⟩
  · cases hs : s.sched with
    | nil => exact ⟨s, by simp only [step, hs]⟩
    | cons m ms =>
      obtain ⟨t, ht, -⟩ := runMove_effect m (scheduled ms s)
      exact ⟨t, (step_eq hs).trans ht⟩

/-- Settles O53: a step is one move, and a move raises at most one cause. -/
theorem stepRaisesAtMostOneCause : Obligations.StepRaisesAtMostOneCause := by
  intro s t hstep
  obtain ⟨-, rfl⟩ | ⟨m, ms, -, he⟩ := step_cases hstep
  · exact .inl rfl
  · exact moveEffect_raisesAtMostOne (s := scheduled ms s) he

/-- Settles O54: the step that sets the mark is a refusal after its caller's move past the operation. -/
theorem refusalMarkIsSticky : Obligations.RefusalMarkIsSticky := by
  intro s t hstep
  obtain ⟨-, rfl⟩ | ⟨m, ms, hs, he⟩ := step_cases hstep
  · exact ⟨id, fun hclear hset => absurd hset (by simp [hclear])⟩
  · obtain h | ⟨k, c, rfl, rfl⟩ := moveEffect_refusal he
    · exact ⟨h.trans, fun hclear hset => absurd (h.symm.trans hset) (by simp [hclear])⟩
    · exact ⟨fun _ => rfl, fun _ _ => ⟨k, ms, hs, refuse_dropOperation_frame c k ms s,
        dropOperation_statuses (actAs k (scheduled ms s))⟩⟩

/-- Settles O15: RX_STEP's answer `ERR` is `readError` of the state without that answer. -/
theorem readErrorDiscardsPartialFrame : Obligations.ReadErrorDiscardsPartialFrame :=
  fun _ _ hr ha => exec_rxStep_err hr ha

/-- Settles O56, row by row of R280's table. -/
theorem causesHaveTheirCodes : Obligations.CausesHaveTheirCodes := fun _ _ _ => rfl

end Sys2Proof.Machine
end

section
/-! PROOFS. Reset and hazards (70_reset_and_hazards.md): the machine right after reset (R320), what a Reset move leaves
(R320, R322), and an ENCODEd frame that is echoed back (R339). -/

namespace Sys2Proof

/-- ENCODE writes the second start byte where the receive side reads the sync marker (R70, R74). -/
theorem buildFrame_marker (dev cmd seq : Byte) (body : Bytes) : byteAt (buildFrame dev cmd seq body) 1 = 0xFF := rfl

end Sys2Proof

namespace Sys2Proof.Machine

section
variable {s : State}

/-- The receive side decodes an ENCODEd frame to the instruction of its class (R71 (a), R74). -/
theorem decodeWireRx_buildFrame (dev cmd seq : Byte) {body : Bytes} (h : body.length ≤ 255) :
    decodeWireRx (buildFrame dev cmd seq body) = .ok (rxInstr (buildFrame dev cmd seq body)) :=
  decodeWireRx_eq_ok.mpr ⟨buildFrame_lengthMatches dev cmd seq h, rfl⟩

/-- Onto an unbounded SYNCBUF PushSync only appends (R25). -/
theorem pushSync_unbounded (f : Frame) (h : s.cfg.syncDepth = none) :
    pushSync f s = { s with syncbuf := s.syncbuf ++ [f] } := by
  simp [pushSync_eq, h]

/-- COMMIT of an ENCODEd frame is PushSync: its checksum holds and its marker is the sync marker (R165, R167). -/
theorem commit_buildFrame (dev cmd seq : Byte) (body : Bytes) :
    commit (buildFrame dev cmd seq body) s = pushSync (buildFrame dev cmd seq body) s := by
  rw [commit_of_match (buildFrame_checksumMatches dev cmd seq body), route_sync (buildFrame_marker dev cmd seq body)]

/-- Whatever the free draw, what the transport accepted by Reset is a prefix of the current frame (R322; log 23). -/
theorem acceptedAtReset_prefix (s : State) : acceptedAtReset s <+: s.txcur.getD [] := List.take_prefix _ _

theorem step_reset {ms : List Move} (hs : s.sched = .reset :: ms) : step s = .next (resetEngine (scheduled ms s)) :=
  step_eq hs

end

/-- Settles O58: the frame decodes to its class's instruction, which is its COMMIT, and that is PushSync. -/
theorem echoedFrameReachesSyncbuf : Obligations.EchoedFrameReachesSyncbuf := by
  intro dev cmd seq body s hbody hrun hdepth
  refine ⟨_, decodeWireRx_buildFrame dev cmd seq hbody, ?_⟩
  rw [exec_rxInstr _ hrun, commit_buildFrame, pushSync_unbounded _ hdepth]

/-- Settles O43, element by element of R20. -/
theorem resetLeavesEngineEmpty : Obligations.ResetLeavesEngineEmpty :=
  ⟨rfl, rfl, rfl, rfl, rfl, rfl, rfl, rfl, rfl, rfl, rfl, List.forall_mem_nil _⟩

/-- Settles O44: the move is `resetEngine`, and the prefix is what the transport accepted of the frame. -/
theorem resetAbandonsEverything : Obligations.ResetAbandonsEverything :=
  fun s _ hs => ⟨acceptedAtReset s, acceptedAtReset_prefix s, step_reset hs⟩

end Sys2Proof.Machine
end

section
/-! PROOFS. The corners of the transmit path (41_transmit.md section 2): the full write in each of its three answers
(log 6), the worker without a current frame (log 15), and FRAME_TX, the worker's write under another name (log 11). -/

namespace Sys2Proof.Machine

section
variable {s : State}

/-- A count that reaches the frame's end or runs past it stands for the whole frame (R133; log 6). -/
theorem acceptedCount_upTo_of_length_le {f : Frame} {n : Nat} (h : f.length ≤ n) :
    acceptedCount (.upTo n) f = some f.length := congrArg some (Nat.min_eq_right h)

/-- A full write appends the whole frame, advances SEQ and frees the worker, whichever answer says so (R134). -/
theorem exec_txStepWrite_full {f : Frame} {a : WriteAnswer} {as : List WriteAnswer} (hr : s.run = true)
    (hp : s.phaseTxw = .busy) (hf : s.txcur = some f) (ha : s.txAnswers = a :: as)
    (hfull : acceptedCount a f = some f.length) :
    exec .txStepWrite s =
      .next { s with txs := s.txs ++ f, seq := s.seq + 1, txcur := none, phaseTxw := .idle, txAnswers := as } := by
  rw [exec_txStepWrite_answered hr hp hf ha, writeFrame_full hfull]

/-- FRAME_TX of the current frame is the worker's write (log 11). -/
theorem exec_frameTx_current {f : Frame} (hf : s.txcur = some f) : exec (.frameTx f) s = exec .txStepWrite s :=
  (execTxStepWrite_eq_execFrameTx hf).symm

end

/-- Settles O11: a count past the frame's end is a full write, and without a current frame the write is disabled. -/
theorem writeCornersStayInBounds : Obligations.WriteCornersStayInBounds := by
  refine ⟨fun s f n as hr hp hf ha hn => ?_, fun s hf => disabledStepHolds _ s ?_⟩
  · exact exec_txStepWrite_full hr hp hf ha (acceptedCount_upTo_of_length_le hn.le)
  · simp [enables, hf]

/-- Settles O12: FRAME_TX of the current frame is a full write, and of any other frame it is disabled. -/
theorem frameTxGoesOutWhole : Obligations.FrameTxGoesOutWhole := by
  refine ⟨fun s f as hr hp hf ha => ?_, fun s f hf => disabledStepHolds _ s ?_⟩
  · rw [exec_frameTx_current hf]
    exact exec_txStepWrite_full hr hp hf ha rfl
  · simp [enables, hf]

end Sys2Proof.Machine
end
